-- ==== Sys2Proof/Word.lean ====
section
/-! DEFINITION. The words of the two blocks: bytes, levels and microsecond quantities (R14, R40, R44). -/

namespace Sys2Proof

/-- A byte of a buffer or of a frame; bit 7 is the most significant (R14). -/
abbrev Byte := BitVec 8

/-- A light level, 8 bits unsigned (R40): 0 is OFF. -/
abbrev Level := BitVec 8

/-- A microsecond quantity, 32 bits unsigned (R44, R199). -/
abbrev Micros := BitVec 32

end Sys2Proof
end

