-- ==== Sys2Proof/Config.lean ====
section
/-! DEFINITION. The parameters of the two blocks (R8, R11, R38), their well-formedness, the set the model starts
with (log entry 2), and the free values of a `RESET` operation (log entry 12). -/

namespace Sys2Proof

/-- The configuration registers of the codec (R38): constants of a run that no operation writes. -/
structure CodecRegs where
  /-- `NSYNC`, sync half-bits before the data: even, at least 2 (R8). -/
  nsync : Nat
  /-- `NSTOP`, stop half-bits after the data: at least 1 (R8). -/
  nstop : Nat
  /-- `HALF_NOM`, capture clocks in a half-bit (R9). -/
  halfNom : Nat
  /-- `HALF_MIN`, the lower bound of the Half window, inside it (R9, R92). -/
  halfMin : Nat
  /-- `HALF_MAX`, the upper bound of the Half window, inside it (R9, R92). -/
  halfMax : Nat
  /-- `FULL_MIN`, the lower bound of the Full window, inside it (R9, R92). -/
  fullMin : Nat
  /-- `FULL_MAX`, the upper bound of the Full window, inside it (R9, R92). -/
  fullMax : Nat
  deriving DecidableEq, Repr

/-- The parameters of the fade engine (R11): constants and the three tables of R60. -/
structure FadeParams where
  /-- `TICK_US`, the period of `FADE_TICK`. -/
  tickUs : Micros
  /-- `FADE_TIME_US[0..15]`; cell 0 is never read (R11). -/
  fadeTimeUs : Vector Micros 16
  /-- `FAST_FADE_UNIT_US`, microseconds per unit of `fastFadeTime`. -/
  fastFadeUnitUs : Micros
  /-- `RATE_WINDOW_US`, the length of a fade-rate ramp. -/
  rateWindowUs : Micros
  /-- `RATE_STEP_US[0..15]`, microseconds per level step. -/
  rateStepUs : Vector Micros 16
  /-- `LOG_CURVE[0..255]`, each entry an `OUT_W`-bit output level. -/
  logCurve : Vector Nat 256
  deriving DecidableEq, Repr

/-- Every parameter of both blocks. The spec has a model take them as an argument (R8, R11); here they stand in
State, where no operation writes them (R51, R62), so that a statement about every state is one about every
parameter set (log entry 2). -/
structure Config where
  /-- `NMAX`, the capacity in bytes of `txBuf` and of `rxBuf` (R8). -/
  nmax : Nat
  /-- `DUR_W`, the width of a measured duration (R8). -/
  durW : Nat
  /-- `TASK_W`, the width of a task handle (R8). -/
  taskW : Nat
  /-- `OUT_W`, the width of the output level (R11). -/
  outW : Nat
  codec : CodecRegs
  fade : FadeParams
  deriving DecidableEq, Repr

/-- `LEN_W`, the width of `txLen`: wide enough for `0 .. NMAX` (R23, R87, R103); 3 for `NMAX = 4`. -/
def Config.lenW (c : Config) : Nat := Nat.log2 c.nmax + 1

/-- The greatest duration the capture front end can measure, `2^DUR_W - 1` (R90). -/
def Config.durMax (c : Config) : Nat := 2 ^ c.durW - 1

/-- The codec registers are well-formed: R8 and the two conditions of R9. -/
def CodecRegs.wf (r : CodecRegs) : Bool :=
  decide (2 ≤ r.nsync ∧ r.nsync % 2 = 0 ∧ 1 ≤ r.nstop ∧ 1 ≤ r.halfNom ∧ 1 ≤ r.halfMin
    ∧ r.halfMin ≤ r.halfMax ∧ r.halfMax < r.fullMin ∧ r.fullMin ≤ r.fullMax)

/-- The fade parameters are well-formed: every bound of R11. -/
def FadeParams.wf (outW : Nat) (p : FadeParams) : Bool :=
  decide (1 ≤ p.tickUs.toNat ∧ p.tickUs.toNat < 2 ^ 31 ∧ p.fastFadeUnitUs.toNat < 2 ^ 23
    ∧ p.rateWindowUs.toNat < 2 ^ 31 ∧ p.logCurve[0] = 0)
  && (p.fadeTimeUs.toList.drop 1).all (fun v => decide (v.toNat < 2 ^ 31))
  && p.rateStepUs.toList.all (fun v => decide (1 ≤ v.toNat ∧ v.toNat < 2 ^ 31))
  && p.logCurve.toList.all (fun v => decide (v < 2 ^ outW))

/-- The whole parameter set is well-formed (R8, R9, R11). -/
def Config.wf (c : Config) : Bool :=
  decide (2 ≤ c.nmax ∧ 1 ≤ c.taskW ∧ 8 ≤ c.outW ∧ c.codec.fullMax < c.durMax)
  && c.codec.wf && c.fade.wf c.outW

/-- The codec registers of the example set P-1M (R10). -/
def CodecRegs.p1m : CodecRegs where
  nsync := 2
  nstop := 4
  halfNom := 416
  halfMin := 375
  halfMax := 457
  fullMin := 749
  fullMax := 915

/-- The defaults offered for the fade engine (R11, R12). DESIGN CHOICE (log entry 2): cell 0 of
`FADE_TIME_US` is 0, cell 0 of `RATE_STEP_US` is 1, and `LOG_CURVE` is 0 everywhere: the spec gives none of them. -/
def FadeParams.offered : FadeParams where
  tickUs := 1000
  fadeTimeUs := #v[0, 707107, 1000000, 1414214, 2000000, 2828427, 4000000, 5656854,
    8000000, 11313708, 16000000, 22627417, 32000000, 45254834, 64000000, 90509668]
  fastFadeUnitUs := 25000
  rateWindowUs := 200000
  rateStepUs := #v[1, 2795, 3953, 5590, 7905, 11180, 15810, 22359,
    31621, 44718, 63241, 89436, 126482, 178873, 252964, 357746]
  logCurve := Vector.replicate 256 0

/-- DESIGN CHOICE (log entry 2): the parameter set of `State.reset`, P-1M (R10) with the widths of the programs of
the spec's test vectors and the offered fade defaults (R12). No statement about every state depends on it. -/
def Config.start : Config where
  nmax := 4
  durW := 16
  taskW := 4
  outW := 8
  codec := CodecRegs.p1m
  fade := FadeParams.offered

/-- The registers whose value after `RESET` R50 calls unspecified, the two buffers apart. -/
structure Unspecified where
  txTask : Nat
  rxTask : Nat
  minLevel : Level
  maxLevel : Level
  physicalMinLevel : Level
  fadeTime : BitVec 4
  fadeRate : BitVec 4
  fastFadeTime : BitVec 8
  /-- Whether `curveSel` is `Linear`. -/
  linear : Bool
  deriving DecidableEq, Repr, Inhabited

/-- FREE VALUE (log entry 12): what the n-th `RESET` operation leaves in the registers R50 calls unspecified. -/
opaque Config.unspecified : Nat → Unspecified

/-- FREE VALUE (log entry 12): what the n-th `RESET` operation leaves in byte i of `txBuf`. -/
opaque Config.unspecifiedTx : Nat → Nat → Byte

/-- FREE VALUE (log entry 12): what the n-th `RESET` operation leaves in byte i of `rxBuf`. -/
opaque Config.unspecifiedRx : Nat → Nat → Byte

end Sys2Proof
end

