-- ==== Sys2Proof/Syntax.lean ====
section
/-! DEFINITION. The instructions: one constructor per row of spec/opcode_table.json. Ten operations (R84), six
unassigned codes (R97), four line symbols (R81 to R83) and the eight entries of the decode table (R94). -/

namespace Sys2Proof

/-- One row of the opcode table each. -/
inductive Instr where
  /-- `TRANSMIT len, task, data[0..len-1]` (R112); `len` is the number of bytes of `data`. -/
  | transmit (task : Nat) (data : List Byte)
  /-- `RECEIVE len, task` (R134). -/
  | receive (len task : Nat)
  /-- `STOP_RECEIVE` (R138). -/
  | stopReceive
  /-- `TX_TICK` (R118). -/
  | txTick
  /-- `RX_RISE` (R142). -/
  | rxRise
  /-- `RX_SAMPLE off, on`: two durations in capture clocks (R144). -/
  | rxSample (off on : Nat)
  /-- `RX_TICK` (R150). -/
  | rxTick
  /-- `FADE_SETUP` (R174). -/
  | fadeSetup
  /-- `FADE_TICK led_ok` (R186). -/
  | fadeTick (ledOk : Bool)
  /-- `RESET` (R240). -/
  | reset
  /-- Unassigned operation code `0x0` (R97). -/
  | unassigned0
  /-- Unassigned operation code `0xA` (R97). -/
  | unassignedA
  /-- Unassigned operation code `0xB` (R97). -/
  | unassignedB
  /-- Unassigned operation code `0xC` (R97). -/
  | unassignedC
  /-- Unassigned operation code `0xD` (R97). -/
  | unassignedD
  /-- Unassigned operation code `0xE` (R97). -/
  | unassignedE
  /-- Line symbol: a data bit 0, the half-bits `(0, 1)` (R81). -/
  | dataBit0
  /-- Line symbol: a data bit 1, the half-bits `(1, 0)` (R81). -/
  | dataBit1
  /-- Line symbol: one pair of sync half-bits, `(1, 0)` (R82). -/
  | syncPair
  /-- Line symbol: one stop half-bit, `0` (R83). -/
  | stopHalfbit
  /-- Decode-table entry 0, `(0, Half, Half)` (R94). -/
  | dec0
  /-- Decode-table entry 1, `(0, Half, Full)` (R94). -/
  | dec1
  /-- Decode-table entry 2, `(0, Full, Half)` (R94). -/
  | dec2
  /-- Decode-table entry 3, `(0, Full, Full)` (R94). -/
  | dec3
  /-- Decode-table entry 4, `(1, Half, Half)` (R94). -/
  | dec4
  /-- Decode-table entry 5, `(1, Half, Full)` (R94). -/
  | dec5
  /-- Decode-table entry 6, `(1, Full, Half)` (R94). -/
  | dec6
  /-- Decode-table entry 7, `(1, Full, Full)` (R94). -/
  | dec7
  deriving DecidableEq, Repr

/-- The encoding spaces of the table (R103): operation words; the line code, where the field of the frame tells a
sync pair from a data bit 1 (both are `10`); and the index of the decode table. -/
inductive Space where
  | operation
  | syncField
  | dataField
  | stopField
  | sampleIndex
  deriving DecidableEq, Repr

/-- The space in which an instruction is encoded (R103). -/
def Instr.space : Instr → Space
  | .transmit _ _ | .receive _ _ | .stopReceive | .txTick | .rxRise | .rxSample _ _ | .rxTick
  | .fadeSetup | .fadeTick _ | .reset => .operation
  | .unassigned0 | .unassignedA | .unassignedB | .unassignedC | .unassignedD | .unassignedE => .operation
  | .dataBit0 | .dataBit1 => .dataField
  | .syncPair => .syncField
  | .stopHalfbit => .stopField
  | .dec0 | .dec1 | .dec2 | .dec3 | .dec4 | .dec5 | .dec6 | .dec7 => .sampleIndex

end Sys2Proof
end

