-- ==== Sys2Proof/WellFormed.lean ====
section
/-! DEFINITION. When the operands of an instruction fit their fields (R14, R87). -/

namespace Sys2Proof

/-- Every operand fits its field under the widths of `c`: `len` in `LEN_W` bits, `task` in `TASK_W`, durations in
`DUR_W` (R87). A length outside `1 .. NMAX` may fit its field: such a command is encoded and then refused by the
acceptance rules R114 and R136. -/
def Instr.wellFormed (c : Config) : Instr → Bool
  | .transmit task data => decide (data.length < 2 ^ c.lenW ∧ task < 2 ^ c.taskW)
  | .receive len task => decide (len < 2 ^ c.lenW ∧ task < 2 ^ c.taskW)
  | .rxSample off on => decide (off < 2 ^ c.durW ∧ on < 2 ^ c.durW)
  | .stopReceive | .txTick | .rxRise | .rxTick | .fadeSetup | .fadeTick _ | .reset => true
  | .unassigned0 | .unassignedA | .unassignedB | .unassignedC | .unassignedD | .unassignedE => true
  | .dataBit0 | .dataBit1 | .syncPair | .stopHalfbit => true
  | .dec0 | .dec1 | .dec2 | .dec3 | .dec4 | .dec5 | .dec6 | .dec7 => true

end Sys2Proof
end

