-- ==== Sys2Proof/Decode.lean ====
section
/-! DEFINITION. The decoder and, after it, the encoder of every encoding space (R84, R87, R94, R97, R103).
A word is a number whose bit 0 is `op[0]`; it is stored least significant byte first in whole bytes and read
zero-extended (log entry 8). -/

namespace Sys2Proof

/-- Why bytes are no encoding; each is a refusal of the step that fetched them (safe). -/
inductive DecodeError where
  /-- An operation word has a bit set above the last field of its format (R87). -/
  | excessBits (code : Nat)
  /-- No line symbol of that field of the frame has this pattern (R81 to R83). -/
  | notALineSymbol (word : Nat)
  /-- The decode table is indexed by 3 bits (R93). -/
  | notAnIndex (word : Nat)
  deriving DecidableEq, Repr

/-- The number a list of bytes stores, byte 0 the least significant (log entry 8). -/
def natOfBytes : List Byte → Nat
  | [] => 0
  | b :: bs => b.toNat + 256 * natOfBytes bs

/-- The `n` low bytes of a number, byte 0 the least significant (log entry 8). -/
def bytesOfNat : Nat → Nat → List Byte
  | 0, _ => []
  | n + 1, w => BitVec.ofNat 8 w :: bytesOfNat n (w / 256)

/-- A format N word: nothing above the 4-bit code (R87). -/
def decodeN (w : Nat) (i : Instr) : Except DecodeError Instr :=
  if w / 16 = 0 then .ok i else .error (.excessBits (w % 16))

/-- An operation word (R84, R87, R97): the code is `w[3:0]`, the operands follow in the order listed. -/
def decodeOperation (c : Config) (w : Nat) : Except DecodeError Instr :=
  match w % 16 with
  | 0 => decodeN w .unassigned0
  | 1 =>
    let len := w / 16 % 2 ^ c.lenW
    let task := w / 16 / 2 ^ c.lenW % 2 ^ c.taskW
    let data := w / 16 / 2 ^ c.lenW / 2 ^ c.taskW
    if data < 256 ^ len then .ok (.transmit task (bytesOfNat len data)) else .error (.excessBits 1)
  | 2 =>
    let len := w / 16 % 2 ^ c.lenW
    let task := w / 16 / 2 ^ c.lenW
    if task < 2 ^ c.taskW then .ok (.receive len task) else .error (.excessBits 2)
  | 3 => decodeN w .stopReceive
  | 4 => decodeN w .txTick
  | 5 => decodeN w .rxRise
  | 6 =>
    let off := w / 16 % 2 ^ c.durW
    let on := w / 16 / 2 ^ c.durW
    if on < 2 ^ c.durW then .ok (.rxSample off on) else .error (.excessBits 6)
  | 7 => decodeN w .rxTick
  | 8 => decodeN w .fadeSetup
  | 9 => if w / 16 < 2 then .ok (.fadeTick (decide (w / 16 = 1))) else .error (.excessBits 9)
  | 10 => decodeN w .unassignedA
  | 11 => decodeN w .unassignedB
  | 12 => decodeN w .unassignedC
  | 13 => decodeN w .unassignedD
  | 14 => decodeN w .unassignedE
  | _ => decodeN w .reset

/-- A line symbol of the data field: `01` is a data bit 0, `10` a data bit 1, the first half-bit the more
significant (R81). -/
def decodeDataSymbol (w : Nat) : Except DecodeError Instr :=
  match w with
  | 1 => .ok .dataBit0
  | 2 => .ok .dataBit1
  | _ => .error (.notALineSymbol w)

/-- An index of the decode table (R93, R94). -/
def decodeIndex (w : Nat) : Except DecodeError Instr :=
  match w with
  | 0 => .ok .dec0
  | 1 => .ok .dec1
  | 2 => .ok .dec2
  | 3 => .ok .dec3
  | 4 => .ok .dec4
  | 5 => .ok .dec5
  | 6 => .ok .dec6
  | 7 => .ok .dec7
  | _ => .error (.notAnIndex w)

/-- The instruction a word of a space encodes (R103); total, refusing by name. -/
def decodeWord (c : Config) (sp : Space) (w : Nat) : Except DecodeError Instr :=
  match sp with
  | .operation => decodeOperation c w
  | .syncField => if w = 2 then .ok .syncPair else .error (.notALineSymbol w)
  | .dataField => decodeDataSymbol w
  | .stopField => if w = 0 then .ok .stopHalfbit else .error (.notALineSymbol w)
  | .sampleIndex => decodeIndex w

/-- The instruction any bytes of a space encode. -/
def decode (c : Config) (sp : Space) (bytes : List Byte) : Except DecodeError Instr :=
  decodeWord c sp (natOfBytes bytes)

/-- How many bits the word of an instruction has: 4 for format N, 5 for L, the sum of the fields for T, R and S
(R87); 2 half-bits or 1 for a line symbol (R81 to R83); 3 for an index (R93). -/
def wordWidth (c : Config) : Instr → Nat
  | .transmit _ data => 4 + c.lenW + c.taskW + 8 * data.length
  | .receive _ _ => 4 + c.lenW + c.taskW
  | .rxSample _ _ => 4 + c.durW + c.durW
  | .fadeTick _ => 5
  | .stopReceive | .txTick | .rxRise | .rxTick | .fadeSetup | .reset => 4
  | .unassigned0 | .unassignedA | .unassignedB | .unassignedC | .unassignedD | .unassignedE => 4
  | .dataBit0 | .dataBit1 | .syncPair => 2
  | .stopHalfbit => 1
  | .dec0 | .dec1 | .dec2 | .dec3 | .dec4 | .dec5 | .dec6 | .dec7 => 3

/-- The word of an instruction in its space (R84, R87; R81 to R83; R93). -/
def encodeWord (c : Config) : Instr → Nat
  | .transmit task data =>
    1 + 16 * (data.length + 2 ^ c.lenW * (task + 2 ^ c.taskW * natOfBytes data))
  | .receive len task => 2 + 16 * (len + 2 ^ c.lenW * task)
  | .stopReceive => 3
  | .txTick => 4
  | .rxRise => 5
  | .rxSample off on => 6 + 16 * (off + 2 ^ c.durW * on)
  | .rxTick => 7
  | .fadeSetup => 8
  | .fadeTick ledOk => 9 + 16 * ledOk.toNat
  | .reset => 15
  | .unassigned0 => 0
  | .unassignedA => 10
  | .unassignedB => 11
  | .unassignedC => 12
  | .unassignedD => 13
  | .unassignedE => 14
  | .dataBit0 => 1
  | .dataBit1 => 2
  | .syncPair => 2
  | .stopHalfbit => 0
  | .dec0 => 0
  | .dec1 => 1
  | .dec2 => 2
  | .dec3 => 3
  | .dec4 => 4
  | .dec5 => 5
  | .dec6 => 6
  | .dec7 => 7

/-- The bytes of an instruction's word: the fewest whole bytes that hold it (log entry 8). -/
def encode (c : Config) (i : Instr) : List Byte :=
  bytesOfNat ((wordWidth c i + 7) / 8) (encodeWord c i)

/-- The bytes of an instruction given as a table row numbers its bits: `nbits` bits in whole bytes, every bit
above them 0. -/
def tableBytes (nbits w : Nat) : List Byte := bytesOfNat ((nbits + 7) / 8) (w % 2 ^ nbits)

/-- What the decoder gives for a table row's bits under the parameters of `State.reset`. The rows of the line code
and of the decode table share their small numbers with the operation words; the words are read as operations
(log entry 7). -/
def decodeTableWord (nbits w : Nat) : Option Instr :=
  (decode Config.start .operation (tableBytes nbits w)).toOption

/-- The mnemonic of an instruction, as the opcode table spells it. -/
def Instr.mnemonic : Instr → String
  | .transmit _ _ => "TRANSMIT"
  | .receive _ _ => "RECEIVE"
  | .stopReceive => "STOP_RECEIVE"
  | .txTick => "TX_TICK"
  | .rxRise => "RX_RISE"
  | .rxSample _ _ => "RX_SAMPLE"
  | .rxTick => "RX_TICK"
  | .fadeSetup => "FADE_SETUP"
  | .fadeTick _ => "FADE_TICK"
  | .reset => "RESET"
  | .unassigned0 => "UNASSIGNED_0"
  | .unassignedA => "UNASSIGNED_A"
  | .unassignedB => "UNASSIGNED_B"
  | .unassignedC => "UNASSIGNED_C"
  | .unassignedD => "UNASSIGNED_D"
  | .unassignedE => "UNASSIGNED_E"
  | .dataBit0 => "DATA_BIT_0"
  | .dataBit1 => "DATA_BIT_1"
  | .syncPair => "SYNC_PAIR"
  | .stopHalfbit => "STOP_HALFBIT"
  | .dec0 => "DEC_0"
  | .dec1 => "DEC_1"
  | .dec2 => "DEC_2"
  | .dec3 => "DEC_3"
  | .dec4 => "DEC_4"
  | .dec5 => "DEC_5"
  | .dec6 => "DEC_6"
  | .dec7 => "DEC_7"

/-- The line of text of an operation in the spec's assembly form (R101). -/
def Instr.render : Instr → String
  | .transmit task data =>
    "TRANSMIT [" ++ ", ".intercalate (data.map fun b => toString b.toNat) ++ "], " ++ toString task
  | .receive len task => "RECEIVE " ++ toString len ++ ", " ++ toString task
  | .rxSample off on => "RX_SAMPLE " ++ toString off ++ ", " ++ toString on
  | .fadeTick ledOk => "FADE_TICK " ++ toString ledOk.toNat
  | i => i.mnemonic

end Sys2Proof
end

