-- ==== Sys2Proof/Machine/State.lean ====
section
/-! DEFINITION. The state of the machine: the four groups of R20, the hidden state of the capture front end (R54),
the parameters (R38, R51) and the model's own fields; the faults and the refusals; and the state after reset (R50). -/

namespace Sys2Proof.Machine

/-- The transmit phases, in the source's order (R21, R96); codes 6 and 7 do not exist (R98). `done` is idle. -/
inductive TxPhase where
  | syncFirstHalf
  | syncSecondHalf
  | dataFirstHalf
  | dataSecondHalf
  | stop
  | done
  deriving DecidableEq, Repr

/-- The receive phases, in the source's order (R27, R96). `done` is disabled. -/
inductive RxPhase where
  | sync
  | data
  | stop
  | done
  deriving DecidableEq, Repr

/-- Why the last receive operation ended in `RecvError` (R35, R96); code 3 does not exist (R98). -/
inductive RxCause where
  | none
  | frameTimingError
  | frameTimeoutError
  deriving DecidableEq, Repr

/-- The four events of the codec (R36, R96, R222). -/
inductive EventKind where
  | recvDone
  | recvError
  | recvEdge
  | xmitDone
  deriving DecidableEq, Repr

/-- The class of a measured duration (R92); `invalid` has no code and never reaches the decode table (R96). -/
inductive DurClass where
  | half
  | full
  | invalid
  deriving DecidableEq, Repr

/-- An entry of the decode table (R94). -/
inductive DecAction where
  | emit0
  | emit1
  | emit01
  | error
  deriving DecidableEq, Repr

/-- The direction of a ramp (R44). -/
inductive Direction where
  | down
  | up
  deriving DecidableEq, Repr

/-- The mode of a ramp (R45, R176). -/
inductive FadeMode where
  | time
  | rate
  deriving DecidableEq, Repr

/-- The dimming curve (R42, R96). -/
inductive Curve where
  | logarithmic
  | linear
  deriving DecidableEq, Repr

/-- A record of the event queue (R36); the payload is empty except for `recvDone`. -/
structure Event where
  task : Nat
  kind : EventKind
  payload : List Byte
  deriving DecidableEq, Repr

/-- A push record of the fade engine to the output driver (R47). -/
structure Push where
  outCurve : Curve
  outLevel : Nat
  lampOn : Bool
  lampFailure : Bool
  deriving DecidableEq, Repr

/-- A byte buffer: its index space starts at 0 (R60). Canonical form: indices strictly rising and no byte 0, which
is what an unlisted index reads as (log entry 9). -/
abbrev Memory := List Host.Cell

/-- The canonical form of a buffer of `n` bytes whose listed indices are at least `lo`: strictly rising, below `n`,
no byte 0. -/
def Memory.wfFrom (n : Nat) : Nat → Memory → Bool
  | _, [] => true
  | lo, (a, b) :: m => decide (lo ≤ a ∧ a < n ∧ b ≠ 0) && Memory.wfFrom n (a + 1) m

/-- The canonical form of a buffer of `n` bytes. -/
def Memory.wf (n : Nat) (m : Memory) : Bool := Memory.wfFrom n 0 m

/-- The transmit sequencer, group (a) of the state (R21 to R26). -/
structure Tx where
  txPhase : TxPhase
  txBuf : Memory
  txLen : Nat
  txByte : Nat
  txBit : BitVec 3
  txCnt : Nat
  /-- The level driven on the line, on or off (R25). -/
  txLine : Bool
  txTask : Nat
  deriving DecidableEq, Repr

/-- The receive sequencer, group (b) of the state (R27 to R35). -/
structure Rx where
  rxPhase : RxPhase
  rxBuf : Memory
  rxLen : Nat
  rxRemain : Nat
  rxByte : Nat
  rxShift : Byte
  rxBitCnt : BitVec 3
  /-- The last bit the decoder identified (R32). -/
  rxPrev : Bool
  rxSyncCnt : Nat
  rxStopCnt : Nat
  rxMiss : BitVec 3
  rxEdgeSeen : Bool
  rxTask : Nat
  rxCause : RxCause
  deriving DecidableEq, Repr

/-- The fade engine, group (d) of the state (R40 to R47). -/
structure Fade where
  requestedLevel : Level
  actualLevel : Level
  minLevel : Level
  maxLevel : Level
  physicalMinLevel : Level
  fadeTime : BitVec 4
  fadeRate : BitVec 4
  fastFadeTime : BitVec 8
  curveSel : Curve
  outputChangeRequested : Bool
  fadeRateRequested : Bool
  fadePeriod : Micros
  fadeIncrement : Micros
  fadeCounter : Micros
  fadeDirection : Direction
  fadeMode : FadeMode
  fadeRunning : Bool
  limitError : Bool
  lampOn : Bool
  lampFailure : Bool
  outLevel : Nat
  outCurve : Curve
  deriving DecidableEq, Repr

/-- Which of the parameter registers of R244 (2) the host has written since the last reset. `physicalMinLevel`, which
is factory-set and which no rule reads (R41), is not among them (log entry 13). -/
structure Loaded where
  minLevel : Bool
  maxLevel : Bool
  fadeTime : Bool
  fadeRate : Bool
  fastFadeTime : Bool
  curveSel : Bool
  deriving DecidableEq, Repr

/-- The hidden state of the capture front end (R54, R90; log entry 17). -/
structure FrontEnd where
  /-- The level of the line at the last capture clock. -/
  level : Bool
  /-- Capture clocks since the last edge, saturating at `2^DUR_W - 1`. -/
  run : Nat
  /-- The duration of the off run that ended at the last rising edge. -/
  off : Nat
  /-- Capture clocks since the last edge or tick: the window timer. -/
  window : Nat
  deriving DecidableEq, Repr

/-- The registers a host may write and the value it writes (R41 to R43, R53, R102). -/
inductive HostWrite where
  | requestedLevel (v : Level)
  | minLevel (v : Level)
  | maxLevel (v : Level)
  | physicalMinLevel (v : Level)
  | fadeTime (v : BitVec 4)
  | fadeRate (v : BitVec 4)
  | fastFadeTime (v : BitVec 8)
  | curveSel (v : Curve)
  | outputChangeRequested (v : Bool)
  | fadeRateRequested (v : Bool)
  deriving DecidableEq, Repr

/-- What can arrive at the machine's ports, one at a time (R3, R16, R39, R70; log entries 1 and 20). -/
inductive Input where
  /-- A word of an encoding space: an operation, or a symbol of the line or an index of the table (R103). -/
  | word (sp : Space) (bytes : List Byte)
  /-- The host writes one of its registers (R53, R102). -/
  | hostWrite (w : HostWrite)
  /-- The host removes the record at the head of `evQ` (R36). -/
  | hostTake
  /-- The host removes every record of a task from `evQ` (R76). -/
  | hostFlush (task : Nat)
  /-- The platform lets the host re-load the configuration registers and tables (R75, R248). -/
  | reconfigure (codec : CodecRegs) (fade : FadeParams)
  /-- One capture clock with the line at a level (R39, R90). -/
  | lineClock (level : Bool)
  deriving DecidableEq, Repr

/-- The whole state. -/
@[ext]
structure State where
  /-- The parameters and configuration registers (R38, R51, R62); no operation writes them (log entry 2). -/
  cfg : Config
  tx : Tx
  rx : Rx
  /-- The event queue, group (c) of the state, its head first (R36). -/
  evQ : List Event
  fade : Fade
  /-- The model's own: which parameter registers the host has loaded (R244, U2; log entry 13). -/
  loaded : Loaded
  /-- The model's own: the push records emitted so far, the oldest first (R47; log entry 19). -/
  pushes : List Push
  frontEnd : FrontEnd
  /-- The model's own: what has arrived and is still to be taken, in the order of R70 (log entry 1). -/
  inputs : List Input
  /-- The model's own: how many `RESET` operations have drawn free values (log entry 12). -/
  freeCount : Nat
  deriving DecidableEq, Repr

/-- Why the machine stops with a fault. -/
inductive Fault where
  /-- Raised by an operation that reaches `txBuf` or `rxBuf` at an index the buffer does not have (R60, R67). Safe;
  no state that keeps the invariants reaches it (log entry 10). -/
  | noSuchIndex (index : Nat)
  deriving DecidableEq, Repr

/-- Why an input has no meaning. -/
inductive Refusal where
  /-- Raised by exec's arm of an instruction that has no meaning yet. Safe. -/
  | notModelled (mnemonic : String)
  /-- Raised by the unassigned operation codes `0x0`, `0xA` to `0xE`: not an operation, and a model refuses it
  (R97, U5). Safe (log entry 4). -/
  | illegalOperation (code : Nat)
  /-- Raised by a step whose bytes are no encoding of their space (R87, R103). Safe (log entry 8). -/
  | badWord (reason : DecodeError)
  /-- Raised by a `FADE_SETUP` with a request, before the host has loaded the parameters of R244 (2) since the last
  reset: the spec's treatment is to refuse (U2). Safe (log entry 13). -/
  | parametersNotLoaded
  /-- Raised by a change of configuration while a sequencer is out of `Done` or a ramp is running (R248, U4).
  Safe (log entry 21). -/
  | configurationInUse
  /-- Raised by a change of configuration to a set that is not well-formed (R8, R9, R11). Safe (log entry 21). -/
  | configurationIllFormed
  deriving DecidableEq, Repr

/-- The transmit registers at reset (R50). DESIGN CHOICE (log entry 11): `txBuf`, `txTask`. -/
def Tx.reset : Tx where
  txPhase := .done
  txBuf := []
  txLen := 0
  txByte := 0
  txBit := 7
  txCnt := 0
  txLine := false
  txTask := 0

/-- The receive registers at reset (R50). DESIGN CHOICE (log entry 11): `rxBuf`, `rxTask`. -/
def Rx.reset : Rx where
  rxPhase := .done
  rxBuf := []
  rxLen := 0
  rxRemain := 0
  rxByte := 0
  rxShift := 0
  rxBitCnt := 0
  rxPrev := true
  rxSyncCnt := 0
  rxStopCnt := 0
  rxMiss := 0
  rxEdgeSeen := false
  rxTask := 0
  rxCause := .none

/-- The fade registers at reset (R50). DESIGN CHOICE (log entry 11): the seven parameter registers of the host; the
three limits satisfy R13. -/
def Fade.reset : Fade where
  requestedLevel := 0
  actualLevel := 0
  minLevel := 1
  maxLevel := 254
  physicalMinLevel := 1
  fadeTime := 0
  fadeRate := 0
  fastFadeTime := 0
  curveSel := .logarithmic
  outputChangeRequested := false
  fadeRateRequested := false
  fadePeriod := 0
  fadeIncrement := 0
  fadeCounter := 0
  fadeDirection := .up
  fadeMode := .time
  fadeRunning := false
  limitError := false
  lampOn := false
  lampFailure := false
  outLevel := 0
  outCurve := .logarithmic

/-- No parameter register is loaded: the state right after a reset (R50, R244). -/
def Loaded.reset : Loaded where
  minLevel := false
  maxLevel := false
  fadeTime := false
  fadeRate := false
  fastFadeTime := false
  curveSel := false

/-- The front end before any clock: an idle line, both durations saturated (R90: the first sample after reset). DESIGN
CHOICE (log entry 17). -/
def FrontEnd.reset (c : Config) : FrontEnd where
  level := false
  run := c.durMax
  off := c.durMax
  window := 0

/-- The machine right after reset (R50, R242), with nothing yet arrived (log entries 1, 2, 11, 13, 17, 19). -/
def State.reset : State where
  cfg := Config.start
  tx := Tx.reset
  rx := Rx.reset
  evQ := []
  fade := Fade.reset
  loaded := Loaded.reset
  pushes := []
  frontEnd := FrontEnd.reset Config.start
  inputs := []
  freeCount := 0

end Sys2Proof.Machine
end

