-- ==== Sys2Proof/Machine/Flags.lean ====
section
/-! DEFINITION. The flags: the derived flags of the codec (R37), the lamp bits (R194), the clamp and its limit error
(R172), and the packed status byte (R46). -/

namespace Sys2Proof.Machine

/-- `txBusy`: the transmitter is out of `Done` (R21, R37). -/
def txBusy (s : State) : Bool := decide (s.tx.txPhase ≠ .done)

/-- `rxArmed`: the receiver is out of `Done` (R27, R37). -/
def rxArmed (s : State) : Bool := decide (s.rx.rxPhase ≠ .done)

/-- `lampOn`: a level other than 0, and a healthy output (R194). -/
def lampOnFlag (level : Level) (ledOk : Bool) : Bool := decide (level ≠ 0) && ledOk

/-- `lampFailure`: the complement of `led_ok` (R194). -/
def lampFailureFlag (ledOk : Bool) : Bool := !ledOk

/-- `Clamp(v)`: the level inside the limits, and whether it was clamped; 0 is always legal (R172). -/
def clamp (minLevel maxLevel v : Level) : Level × Bool :=
  if v = 0 then (0, false)
  else if v < minLevel then (minLevel, true)
  else if v > maxLevel then (maxLevel, true)
  else (v, false)

/-- The host has loaded every parameter a setup or the ticks after it can read (R244 (2); log entry 13). -/
def parametersLoaded (l : Loaded) : Bool :=
  l.minLevel && l.maxLevel && l.fadeTime && l.fadeRate && l.fastFadeTime && l.curveSel

/-- The engine's four status bits packed: bit 1 `lampFailure`, bit 2 `lampOn`, bit 3 `limitError`, bit 4 `fadeRunning`
(R46, for information). PRESUMED (log entry 24): the positions are general knowledge; no operation reads this. -/
def statusByte (f : Fade) : Byte :=
  BitVec.ofNat 8 (2 * f.lampFailure.toNat + 4 * f.lampOn.toNat + 8 * f.limitError.toNat + 16 * f.fadeRunning.toNat)

end Sys2Proof.Machine
end

