-- ==== Sys2Proof/Machine/Operands.lean ====
section
/-! DEFINITION. The operands of the operations: the duration windows (R9), the class of a duration (R92), the index
and the entries of the decode table (R93, R94), the codes of the enumerations (R96) and the record words (R88). -/

namespace Sys2Proof.Machine

/-- The parameters of R8 from which the configuration registers are computed. -/
structure CodecParams where
  nsync : Nat
  nstop : Nat
  clockFreq : Nat
  halfbitFreq : Nat
  tolPct : Nat
  deriving DecidableEq, Repr

/-- `HALF_NOM = CLOCK_FREQ div HALFBIT_FREQ` (R9). -/
def nominalHalf (p : CodecParams) : Nat := p.clockFreq / p.halfbitFreq

/-- `FULL_NOM = 2 * HALF_NOM` (R9). -/
def nominalFull (p : CodecParams) : Nat := 2 * nominalHalf p

/-- The tolerance of a nominal duration, `TOL_H` or `TOL_F`: percent, rounded down (R9). -/
def tolerance (p : CodecParams) (nominal : Nat) : Nat := nominal * p.tolPct / 100

/-- The configuration registers of a parameter set (R9, R38). -/
def calibrate (p : CodecParams) : CodecRegs where
  nsync := p.nsync
  nstop := p.nstop
  halfNom := nominalHalf p
  halfMin := nominalHalf p - tolerance p (nominalHalf p)
  halfMax := nominalHalf p + tolerance p (nominalHalf p)
  fullMin := nominalFull p - tolerance p (nominalFull p)
  fullMax := nominalFull p + tolerance p (nominalFull p)

/-- A parameter set is well-formed: the constraints of R8 and the two conditions of R9. -/
def paramsWellFormed (p : CodecParams) : Bool :=
  decide (2 ≤ p.nsync ∧ p.nsync % 2 = 0 ∧ 1 ≤ p.nstop ∧ 0 < p.clockFreq ∧ 0 < p.halfbitFreq
    ∧ p.halfbitFreq ≤ p.clockFreq ∧ 1 ≤ (calibrate p).halfMin ∧ (calibrate p).halfMax < (calibrate p).fullMin)

/-- `Classify(d)` (R92): both bounds of each window are inside it. -/
def classify (r : CodecRegs) (d : Nat) : DurClass :=
  if r.halfMin ≤ d ∧ d ≤ r.halfMax then .half
  else if r.fullMin ≤ d ∧ d ≤ r.fullMax then .full
  else .invalid

/-- The index `(rxPrev, cOff, cOn)` with `Half = 0` and `Full = 1` (R93); none where a class is `Invalid`, which
never reaches the table. -/
def decIndex (prev : Bool) (cOff cOn : DurClass) : Option (BitVec 3) :=
  let bit : DurClass → Option (BitVec 1)
    | .half => some 0
    | .full => some 1
    | .invalid => none
  match bit cOff, bit cOn with
  | some off, some on => some (BitVec.ofBool prev ++ off ++ on)
  | _, _ => none

/-- The decode table `DEC[0..7]` (R94). -/
def decTable (idx : BitVec 3) : DecAction :=
  match idx.toNat with
  | 0 => .emit0
  | 1 => .emit01
  | 2 => .error
  | 3 => .error
  | 4 => .emit1
  | 5 => .error
  | 6 => .emit0
  | _ => .emit01

/-- The class coded by one bit of an index (R93). -/
def classOfBit (full : Bool) : DurClass := if full then .full else .half

/-- The class of the off duration in an index: bit 1 (R93). -/
def indexOff (idx : BitVec 3) : DurClass := classOfBit (idx.getLsbD 1)

/-- The class of the on duration in an index: bit 0 (R93). -/
def indexOn (idx : BitVec 3) : DurClass := classOfBit (idx.getLsbD 0)

/-- The previous bit in an index: bit 2 (R93). -/
def indexPrev (idx : BitVec 3) : Bool := idx.getLsbD 2

/-- The codes of `txPhase` (R21, R96). -/
def txPhaseCode : TxPhase → BitVec 3
  | .syncFirstHalf => 0
  | .syncSecondHalf => 1
  | .dataFirstHalf => 2
  | .dataSecondHalf => 3
  | .stop => 4
  | .done => 5

/-- The codes of `rxPhase` (R27, R96). -/
def rxPhaseCode : RxPhase → BitVec 2
  | .sync => 0
  | .data => 1
  | .stop => 2
  | .done => 3

/-- The codes of `rxCause` (R35, R96). -/
def rxCauseCode : RxCause → BitVec 2
  | .none => 0
  | .frameTimingError => 1
  | .frameTimeoutError => 2

/-- The codes of the events (R36, R96). -/
def eventCode : EventKind → BitVec 2
  | .recvDone => 0
  | .recvError => 1
  | .recvEdge => 2
  | .xmitDone => 3

/-- The codes of the decode actions (R94, R96). -/
def decActionCode : DecAction → BitVec 2
  | .emit0 => 0
  | .emit1 => 1
  | .emit01 => 2
  | .error => 3

/-- The code of `fadeDirection` (R44, R96). -/
def directionCode : Direction → BitVec 1
  | .down => 0
  | .up => 1

/-- The code of `fadeMode` (R45, R96). -/
def fadeModeCode : FadeMode → BitVec 1
  | .time => 0
  | .rate => 1

/-- The code of `curveSel` and `outCurve` (R42, R96). -/
def curveCode : Curve → BitVec 1
  | .logarithmic => 0
  | .linear => 1

/-- The record word of an event, `(payload, event, task)` from the high bits down, byte 0 of the payload first and so the
most significant (R14, R88). -/
def eventWord (c : Config) (e : Event) : Nat :=
  e.task + 2 ^ c.taskW * ((eventCode e.kind).toNat + 4 * natOfBytes e.payload.reverse)

/-- The record word of a push, `(lampFailure, lampOn, outLevel, outCurve)` from the high bits down (R88). -/
def pushWord (c : Config) (p : Push) : Nat :=
  (curveCode p.outCurve).toNat
    + 2 * (p.outLevel + 2 ^ c.outW * (p.lampOn.toNat + 2 * p.lampFailure.toNat))

end Sys2Proof.Machine
end

