-- ==== Sys2Proof/Machine/Ops.lean ====
section
/-! DEFINITION. The named operations over the state that the meanings share: the buffers (R60, R61), `Post` (R36),
the receive abort and the return from it (R214, R216), the byte packer (R146) and the level steps (R171). -/

namespace Sys2Proof.Machine

/-- Run one transition, then another from the state it leaves; a stop ends both. -/
def andThen (o : Host.Outcome State Fault Refusal) (f : State → Host.Outcome State Fault Refusal) :
    Host.Outcome State Fault Refusal :=
  match o with
  | .next s => f s
  | .fault r => .fault r
  | .refused r => .refused r

/-- The byte of a buffer at an index; an unlisted index reads as 0 (log entry 9). -/
def Memory.read : Memory → Nat → Byte
  | [], _ => 0
  | (a, b) :: m, i => if a = i then b else Memory.read m i

/-- Put a cell at the head of a buffer, unless its byte is what an unlisted index reads as. -/
def Memory.cons (i : Nat) (v : Byte) (m : Memory) : Memory := if v = 0 then m else (i, v) :: m

/-- `buf[i] <- v` (R15), keeping the canonical form. -/
def Memory.write : Memory → Nat → Byte → Memory
  | [], i, v => Memory.cons i v []
  | (a, b) :: m, i, v =>
    if i < a then Memory.cons i v ((a, b) :: m)
    else if i = a then Memory.cons i v m
    else (a, b) :: Memory.write m i v

/-- `buf[i] <- data[0]`, `buf[i+1] <- data[1]`, and so on (R63, R112). -/
def Memory.writeBytes : Memory → Nat → List Byte → Memory
  | m, _, [] => m
  | m, i, b :: bs => Memory.writeBytes (Memory.write m i b) (i + 1) bs

/-- `buf[0 .. n-1]` (R36). -/
def Memory.bytes (m : Memory) (n : Nat) : List Byte := (List.range n).map (Memory.read m)

/-- A buffer of `n` bytes with the byte `f i` at each index `i`. -/
def Memory.fill (n : Nat) (f : Nat → Byte) : Memory := Memory.writeBytes [] 0 ((List.range n).map f)

/-- `Post(task, ev)`: append a record at the tail of `evQ` (R36). -/
def post (task : Nat) (kind : EventKind) (payload : List Byte) (s : State) : State :=
  { s with evQ := s.evQ ++ [⟨task, kind, payload⟩] }

/-- Taking an exception: `Abort(cause)` (R214). The cause is recorded, the receiver stops, the host is told; nothing
else is saved and nothing else changes. -/
def abort (cause : RxCause) (s : State) : State :=
  post s.rx.rxTask .recvError [] { s with rx := { s.rx with rxCause := cause, rxPhase := .done } }

/-- The return from an exception, and every other arming of the receiver (R134, R216): all receive registers but
`rxBuf` are initialised. -/
def rearm (len task : Nat) (r : Rx) : Rx where
  rxPhase := .sync
  rxBuf := r.rxBuf
  rxLen := len
  rxRemain := len
  rxByte := 0
  rxShift := 0
  rxBitCnt := 0
  rxPrev := true
  rxSyncCnt := 0
  rxStopCnt := 0
  rxMiss := 0
  rxEdgeSeen := false
  rxTask := task
  rxCause := .none

/-- The first edge of a receive operation is announced by `RecvEdge`, once (R142, R144, R160). -/
def noteEdge (s : State) : State :=
  if s.rx.rxEdgeSeen then s
  else post s.rx.rxTask .recvEdge [] { s with rx := { s.rx with rxEdgeSeen := true } }

/-- Every edge clears the timeout counter (R156). -/
def clearMiss (s : State) : State := { s with rx := { s.rx with rxMiss := 0 } }

/-- `rxPrev <- b` (R144). -/
def setPrev (b : Bool) (s : State) : State := { s with rx := { s.rx with rxPrev := b } }

/-- The byte formed by shifting a bit in at bit 0 (R31, R146). -/
def shiftIn (v : Byte) (b : Bool) : Byte := v.extractLsb' 0 7 ++ BitVec.ofBool b

/-- The packer's registers when a byte is complete (R146): it is stored, and the last one ends the data phase. -/
def storeByte (v : Byte) (r : Rx) : Rx :=
  let stored : Rx :=
    { r with
      rxShift := v
      rxBuf := Memory.write r.rxBuf r.rxByte v
      rxByte := r.rxByte + 1
      rxRemain := r.rxRemain - 1
      rxBitCnt := 0 }
  if stored.rxRemain = 0 then { stored with rxStopCnt := 0, rxPhase := .stop } else stored

/-- The byte packer `Push(b)` (R146). -/
def pushBit (b : Bool) (s : State) : Host.Outcome State Fault Refusal :=
  let v := shiftIn s.rx.rxShift b
  if s.rx.rxBitCnt = 7 then
    if s.rx.rxByte < s.cfg.nmax then .next { s with rx := storeByte v s.rx }
    else .fault (.noSuchIndex s.rx.rxByte)
  else .next { s with rx := { s.rx with rxShift := v, rxBitCnt := s.rx.rxBitCnt + 1 } }

/-- What a decode action does in the data phase (R94, R144): the `1` of `Emit01` after a `0` that completed the last
byte is a bit beyond the requested length, and aborts. -/
def applyAction (a : DecAction) (s : State) : Host.Outcome State Fault Refusal :=
  match a with
  | .emit0 => andThen (pushBit false s) fun t => .next (setPrev false t)
  | .emit1 => andThen (pushBit true s) fun t => .next (setPrev true t)
  | .emit01 =>
    andThen (pushBit false s) fun t =>
      if t.rx.rxPhase = .data then andThen (pushBit true t) fun u => .next (setPrev true u)
      else .next (abort .frameTimingError t)
  | .error => .next (abort .frameTimingError s)

/-- A sample in the sync phase, after its edge is noted (R140, R144): the first ignores its off duration, each
accepted one counts two half-bits. -/
def syncSample (cOff cOn : DurClass) (s : State) : State :=
  let n := s.rx.rxSyncCnt
  if cOn = .half ∧ (n = 0 ∨ cOff = .half) then
    { s with
      rx := { s.rx with
        rxSyncCnt := n + 2
        rxPrev := if n = 0 then true else s.rx.rxPrev
        rxPhase := if n + 2 ≥ s.cfg.codec.nsync then .data else s.rx.rxPhase } }
  else abort .frameTimingError s

/-- A sample of two classes, with the action of the data phase given (R144). -/
def sample (cOff cOn : DurClass) (a : DecAction) (s : State) : Host.Outcome State Fault Refusal :=
  match s.rx.rxPhase with
  | .done => .next s
  | .stop => .next (abort .frameTimingError s)
  | .sync => .next (syncSample cOff cOn (clearMiss (noteEdge s)))
  | .data => applyAction a (clearMiss s)

/-- The action of a sample in the data phase (R144): a class outside both windows aborts as an `Error` entry does, and
the two are not told apart (R212). -/
def lookup (prev : Bool) (cOff cOn : DurClass) : DecAction :=
  match decIndex prev cOff cOn with
  | some idx => decTable idx
  | none => .error

/-- `StepUp(a)` (R171). -/
def stepUp (minLevel a : Level) : Level := if a = 0 then minLevel else a + 1

/-- `StepDown(a)` (R171). -/
def stepDown (minLevel a : Level) : Level := if a ≤ minLevel then 0 else a - 1

/-- `Dist(a, r)`: how many steps lead from `a` to `r` (R171). -/
def dist (minLevel a r : Level) : Nat :=
  if r > a then (if a = 0 then 1 + (r.toNat - minLevel.toNat) else r.toNat - a.toNat)
  else if r < a then
    (if r = 0 then (if a ≤ minLevel then 1 else a.toNat - minLevel.toNat + 1)
     else a.toNat - r.toNat)
  else 0

end Sys2Proof.Machine
end

