-- ==== Sys2Proof/Machine/DecodeTable.lean ====
section
/-! DEFINITION. The entries of the decode table: a sample whose classes are those of the entry's index, and whose
action in the data phase is the entry's (R93, R94, R144; log entry 6). -/

namespace Sys2Proof.Machine

/-- A sample that selects entry `idx` of the table. -/
def sampleEntry (idx : BitVec 3) (s : State) : Host.Outcome State Fault Refusal :=
  sample (indexOff idx) (indexOn idx) (decTable idx) s

/-- `DEC_0`: push 0, `rxPrev <- 0` (R94). -/
def execDec0 (s : State) : Host.Outcome State Fault Refusal := sampleEntry 0 s

/-- `DEC_1`: push 0 then 1, `rxPrev <- 1` (R94). -/
def execDec1 (s : State) : Host.Outcome State Fault Refusal := sampleEntry 1 s

/-- `DEC_2`: `Abort(FrameTimingError)` (R94). -/
def execDec2 (s : State) : Host.Outcome State Fault Refusal := sampleEntry 2 s

/-- `DEC_3`: `Abort(FrameTimingError)` (R94). -/
def execDec3 (s : State) : Host.Outcome State Fault Refusal := sampleEntry 3 s

/-- `DEC_4`: push 1, `rxPrev <- 1` (R94). -/
def execDec4 (s : State) : Host.Outcome State Fault Refusal := sampleEntry 4 s

/-- `DEC_5`: `Abort(FrameTimingError)` (R94). -/
def execDec5 (s : State) : Host.Outcome State Fault Refusal := sampleEntry 5 s

/-- `DEC_6`: push 0, `rxPrev <- 0` (R94). -/
def execDec6 (s : State) : Host.Outcome State Fault Refusal := sampleEntry 6 s

/-- `DEC_7`: push 0 then 1, `rxPrev <- 1` (R94). -/
def execDec7 (s : State) : Host.Outcome State Fault Refusal := sampleEntry 7 s

end Sys2Proof.Machine
end

