-- ==== Sys2Proof/Machine/FadeEngine.lean ====
section
/-! DEFINITION. The fade and dimming engine: `FADE_SETUP` and `FADE_TICK` (R170 to R199). -/

namespace Sys2Proof.Machine

/-- `Clear()` (R186): the ramp is over. -/
def clearRamp (f : Fade) : Fade :=
  { f with fadeRunning := false, fadePeriod := 0, fadeIncrement := 0, fadeCounter := 0 }

/-- The period of a setup (R174, R178): the fade-rate window, the table, or the fast fade time. -/
def setupPeriod (p : FadeParams) (f : Fade) : Micros :=
  if f.fadeRateRequested then p.rateWindowUs
  else if f.fadeTime ≠ 0 then p.fadeTimeUs[f.fadeTime.toNat]
  else f.fastFadeTime.zeroExtend 32 * p.fastFadeUnitUs

/-- The microseconds per step of a setup over the distance `d` (R174, R182). -/
def setupIncrement (p : FadeParams) (f : Fade) (d : Nat) : Micros :=
  if f.fadeRateRequested then p.rateStepUs[f.fadeRate.toNat]
  else BitVec.ofNat 32 ((setupPeriod p f).toNat / d)

/-- The ramp registers of a setup whose clamped target is `r` (R174, R180, R182): at once, or a ramp. -/
def startRamp (p : FadeParams) (r : Level) (f : Fade) : Fade :=
  let d := dist f.minLevel f.actualLevel r
  let period := setupPeriod p f
  if d ≤ 1 ∨ period = 0 then clearRamp { f with actualLevel := r }
  else
    { f with
      fadeMode := if f.fadeRateRequested then .rate else .time
      fadeDirection := if r > f.actualLevel then .up else .down
      fadePeriod := period
      fadeIncrement := setupIncrement p f d
      fadeCounter := 0
      fadeRunning := true }

/-- The registers of `FADE_SETUP` (R174); nothing without a request (R184). -/
def setupFade (p : FadeParams) (f : Fade) : Fade :=
  if f.outputChangeRequested then
    let (r, c) := clamp f.minLevel f.maxLevel f.requestedLevel
    let g := startRamp p r { f with limitError := c, requestedLevel := r }
    { g with fadeRateRequested := false, outputChangeRequested := false }
  else f

/-- `FADE_SETUP` (R174). With a request it reads the host's parameters, and before these are loaded it is outside the
spec: U2's treatment is to refuse it (R244; log entry 13). -/
def execFadeSetup (s : State) : Host.Outcome State Fault Refusal :=
  if s.fade.outputChangeRequested ∧ parametersLoaded s.loaded = false then .refused .parametersNotLoaded
  else .next { s with fade := setupFade s.cfg.fade s.fade }

/-- The turns of an upward loop that move nothing: level 0 with `minLevel = 0`, where `StepUp` answers 0 (R171, U6). With
an increment of 0 the loop runs straight to the target (R188); with another, only the counter falls, to its remainder.
DEDUCED (log entry 16). -/
def climbInPlace (inc : Micros) (target a : Level) (k : Micros) : Level × Micros :=
  if inc = 0 then (target, k) else (a, k % inc)

/-- The `while` loop of an upward ramp (R186): the level and the counter it ends with. A turn that moves the level counts
against the number of turns left, of which `levelTurns` are enough. -/
def climb (inc : Micros) (minLevel target : Level) : Nat → Level → Micros → Level × Micros
  | 0, a, k => (a, k)
  | n + 1, a, k =>
    if k ≥ inc ∧ a < target then
      if stepUp minLevel a = a then climbInPlace inc target a k
      else climb inc minLevel target n (stepUp minLevel a) (k - inc)
    else (a, k)

/-- The `while` loop of a downward ramp (R186); every turn moves the level. -/
def descend (inc : Micros) (minLevel target : Level) : Nat → Level → Micros → Level × Micros
  | 0, a, k => (a, k)
  | n + 1, a, k =>
    if k ≥ inc ∧ a > target then descend inc minLevel target n (stepDown minLevel a) (k - inc) else (a, k)

/-- Turns enough for every loop: a turn moves an 8-bit level strictly toward the target (R188), at most 255 times. -/
def levelTurns : Nat := 256

/-- One tick is accumulated and the level stepped (R186, R188): the level and the counter after it. -/
def moveLevel (p : FadeParams) (f : Fade) : Level × Micros :=
  let k := f.fadeCounter + p.tickUs
  match f.fadeDirection with
  | .up => climb f.fadeIncrement f.minLevel f.requestedLevel levelTurns f.actualLevel k
  | .down => descend f.fadeIncrement f.minLevel f.requestedLevel levelTurns f.actualLevel k

/-- The level has arrived at or passed the target, in the direction of the ramp (R186, D28). -/
def reached (f : Fade) : Bool :=
  match f.fadeDirection with
  | .up => decide (f.actualLevel ≥ f.requestedLevel)
  | .down => decide (f.actualLevel ≤ f.requestedLevel)

/-- `fadePeriod -sat TICK_US` (R14, R186). -/
def remaining (p : FadeParams) (f : Fade) : Micros :=
  if f.fadePeriod ≤ p.tickUs then 0 else f.fadePeriod - p.tickUs

/-- The end of the ramp, once the level has been stepped: on arrival in fade-time mode, on exhaustion of the period in
fade-rate mode (R186, R196). -/
def endTick (p : FadeParams) (f : Fade) : Fade :=
  match f.fadeMode with
  | .time => if reached f then clearRamp f else f
  | .rate => if remaining p f = 0 then clearRamp f else { f with fadePeriod := remaining p f }

/-- The accumulating and stepping half of `FADE_TICK` (R186). -/
def stepRamp (p : FadeParams) (f : Fade) : Fade :=
  let moved := moveLevel p f
  endTick p { f with actualLevel := moved.1, fadeCounter := moved.2 }

/-- The output level of an actual level (R192): the table, or the level itself zero-extended. -/
def mapLevel (p : FadeParams) (curve : Curve) (a : Level) : Nat :=
  match curve with
  | .logarithmic => p.logCurve[a.toNat]
  | .linear => a.toNat

/-- The output half of `FADE_TICK` (R186, R192, R194), run on every tick. -/
def driveOutputs (p : FadeParams) (ledOk : Bool) (f : Fade) : Fade :=
  { f with
    outCurve := f.curveSel
    outLevel := mapLevel p f.curveSel f.actualLevel
    lampFailure := lampFailureFlag ledOk
    lampOn := lampOnFlag f.actualLevel ledOk }

/-- The push record of the outputs (R47, R186). -/
def pushOf (f : Fade) : Push := ⟨f.outCurve, f.outLevel, f.lampOn, f.lampFailure⟩

/-- The state after the output half: the outputs written, one push record emitted (R186). -/
def driveState (ledOk : Bool) (f : Fade) (s : State) : State :=
  let g := driveOutputs s.cfg.fade ledOk f
  { s with fade := g, pushes := s.pushes ++ [pushOf g] }

/-- `FADE_TICK led_ok` (R186). -/
def execFadeTick (ledOk : Bool) (s : State) : Host.Outcome State Fault Refusal :=
  .next (driveState ledOk (if s.fade.fadeRunning then stepRamp s.cfg.fade s.fade else s.fade) s)

end Sys2Proof.Machine
end

