-- ==== Sys2Proof/Machine/Receive.lean ====
section
/-! DEFINITION. The receive family: `RECEIVE`, `STOP_RECEIVE`, `RX_RISE`, `RX_SAMPLE`, `RX_TICK` (R130 to R168). -/

namespace Sys2Proof.Machine

/-- Acceptance of `RECEIVE` (R136). -/
def receiveAccepted (len : Nat) (s : State) : Bool :=
  decide (s.tx.txPhase = .done ∧ 1 ≤ len ∧ len ≤ s.cfg.nmax)

/-- `RECEIVE len, task` (R134), from any receive phase. A refused command changes no register and posts no event
(R136, R218; log entry 3). -/
def execReceive (len task : Nat) (s : State) : Host.Outcome State Fault Refusal :=
  if receiveAccepted len s then .next { s with rx := rearm len task s.rx } else .next s

/-- `STOP_RECEIVE` (R138). -/
def execStopReceive (s : State) : Host.Outcome State Fault Refusal :=
  .next { s with rx := { s.rx with rxPhase := .done } }

/-- `RX_RISE` (R142). -/
def execRxRise (s : State) : Host.Outcome State Fault Refusal :=
  match s.rx.rxPhase with
  | .done => .next s
  | .stop => .next (abort .frameTimingError s)
  | .sync => .next (clearMiss (noteEdge s))
  | .data => .next (clearMiss (noteEdge s))

/-- `RX_SAMPLE off, on` (R144). -/
def execRxSample (off on : Nat) (s : State) : Host.Outcome State Fault Refusal :=
  let cOff := classify s.cfg.codec off
  let cOn := classify s.cfg.codec on
  sample cOff cOn (lookup s.rx.rxPrev cOff cOn) s

/-- `TIMEOUT_WINDOWS`, fixed (R8). -/
def timeoutWindows : BitVec 3 := 4

/-- A half-bit window without an edge, in `Sync` or `Data` (R150, R156): ignored before the first edge. -/
def missWindow (s : State) : State :=
  if s.rx.rxEdgeSeen then
    let t : State := { s with rx := { s.rx with rxMiss := s.rx.rxMiss + 1 } }
    if s.rx.rxMiss + 1 = timeoutWindows then abort .frameTimeoutError t else t
  else s

/-- A trailing idle half-bit (R150, R154): the last one delivers the frame, `rxBuf[0 .. rxLen-1]` (R158). -/
def stopWindow (s : State) : Host.Outcome State Fault Refusal :=
  let n := s.rx.rxStopCnt + 1
  if n = s.cfg.codec.nstop then
    if s.rx.rxLen ≤ s.cfg.nmax then
      .next (post s.rx.rxTask .recvDone (Memory.bytes s.rx.rxBuf s.rx.rxLen)
        { s with rx := { s.rx with rxStopCnt := n, rxPhase := .done } })
    else .fault (.noSuchIndex s.cfg.nmax)
  else .next { s with rx := { s.rx with rxStopCnt := n } }

/-- `RX_TICK` (R150). -/
def execRxTick (s : State) : Host.Outcome State Fault Refusal :=
  match s.rx.rxPhase with
  | .done => .next s
  | .sync => .next (missWindow s)
  | .data => .next (missWindow s)
  | .stop => stopWindow s

end Sys2Proof.Machine
end

