-- ==== Sys2Proof/Machine/Transmit.lean ====
section
/-! DEFINITION. The transmit family: `TRANSMIT` and `TX_TICK` (R110 to R129). -/

namespace Sys2Proof.Machine

/-- Acceptance of `TRANSMIT` (R114). -/
def transmitAccepted (len : Nat) (s : State) : Bool :=
  decide (s.tx.txPhase = .done ∧ s.rx.rxPhase = .done ∧ 1 ≤ len ∧ len ≤ s.cfg.nmax)

/-- The transmit registers of an accepted `TRANSMIT` (R112); `txLine` is not written. -/
def armTransmit (task : Nat) (data : List Byte) (t : Tx) : Tx :=
  { t with
    txBuf := Memory.writeBytes t.txBuf 0 data
    txLen := data.length
    txByte := 0
    txBit := 7
    txCnt := 0
    txTask := task
    txPhase := .syncFirstHalf }

/-- `TRANSMIT len, task, data` (R112). A refused command changes no register and posts no event (R114, R218;
log entry 3). -/
def execTransmit (task : Nat) (data : List Byte) (s : State) : Host.Outcome State Fault Refusal :=
  if transmitAccepted data.length s then .next { s with tx := armTransmit task data s.tx } else .next s

/-- `txBuf[txByte][txBit]`, the bit being sent (R61, R118). -/
def txDataBit (t : Tx) : Bool := (Memory.read t.txBuf t.txByte).getLsbD t.txBit.toNat

/-- The registers of `TX_TICK` in each phase (R118); `Stop` past its last half-bit is the completion below. -/
def tickTx (c : CodecRegs) (t : Tx) : Tx :=
  match t.txPhase with
  | .syncFirstHalf => { t with txLine := true, txCnt := t.txCnt + 1, txPhase := .syncSecondHalf }
  | .syncSecondHalf =>
    if t.txCnt + 1 ≥ c.nsync then { t with txLine := false, txCnt := 0, txPhase := .dataFirstHalf }
    else { t with txLine := false, txCnt := t.txCnt + 1, txPhase := .syncFirstHalf }
  | .dataFirstHalf => { t with txLine := txDataBit t, txPhase := .dataSecondHalf }
  | .dataSecondHalf =>
    if t.txBit = 0 then
      if t.txByte + 1 = t.txLen then
        { t with txLine := !txDataBit t, txBit := 7, txByte := t.txByte + 1, txCnt := 0, txPhase := .stop }
      else { t with txLine := !txDataBit t, txBit := 7, txByte := t.txByte + 1, txPhase := .dataFirstHalf }
    else { t with txLine := !txDataBit t, txBit := t.txBit - 1, txPhase := .dataFirstHalf }
  | .stop =>
    if t.txCnt < c.nstop then { t with txLine := false, txCnt := t.txCnt + 1 } else { t with txPhase := .done }
  | .done => t

/-- The tick that leaves `Stop`, one period after the last stop half-bit began (R118, R122). -/
def txCompletes (s : State) : Bool := decide (s.tx.txPhase = .stop ∧ s.cfg.codec.nstop ≤ s.tx.txCnt)

/-- The tick reads the buffer: only in the two data phases (R61). -/
def txReads (t : Tx) : Bool := decide (t.txPhase = .dataFirstHalf ∨ t.txPhase = .dataSecondHalf)

/-- `TX_TICK` (R118). -/
def execTxTick (s : State) : Host.Outcome State Fault Refusal :=
  if txReads s.tx ∧ s.cfg.nmax ≤ s.tx.txByte then .fault (.noSuchIndex s.tx.txByte)
  else
    let t : State := { s with tx := tickTx s.cfg.codec s.tx }
    .next (if txCompletes s then post s.tx.txTask .xmitDone [] t else t)

/-- The sync half-bits of a frame: level 1 where the number is even (R82). -/
def syncLevels (n : Nat) : List Bool := (List.range n).map fun i => decide (i % 2 = 0)

/-- The two half-bits of a data bit: the value, then its complement (R81). -/
def bitCell (b : Bool) : List Bool := [b, !b]

/-- The sixteen half-bits of a byte, the most significant bit first (R85). -/
def byteCells (v : Byte) : List Bool :=
  ([7, 6, 5, 4, 3, 2, 1, 0] : List Nat).flatMap fun i => bitCell (v.getLsbD i)

/-- `Frame(d)`, the half-bit levels of a frame (R85). -/
def frame (c : CodecRegs) (d : List Byte) : List Bool :=
  syncLevels c.nsync ++ d.flatMap byteCells ++ List.replicate c.nstop false

/-- `n` operations `TX_TICK` in a row. -/
def txTicks : Nat → State → Host.Outcome State Fault Refusal
  | 0, s => .next s
  | n + 1, s => andThen (txTicks n s) execTxTick

end Sys2Proof.Machine
end

