-- ==== Sys2Proof/Machine/Capture.lean ====
section
/-! DEFINITION. The capture front end: clock by clock (R90), and as the reference function on runs (R91). -/

namespace Sys2Proof.Machine

/-- The events a front end emits (R90). -/
inductive FrontEvent where
  | rise
  | sample (off on : Nat)
  | tick
  deriving DecidableEq, Repr

/-- A duration one clock longer, saturating (R90). -/
def longer (c : Config) (d : Nat) : Nat := min (d + 1) c.durMax

/-- One capture clock with the line at `level` (R90): the front end after it and the event it emits, if any. An edge
restarts both the duration counter and the window timer, and no tick falls in its clock (log entry 18). -/
def clockFrontEnd (c : Config) (level : Bool) (f : FrontEnd) : FrontEnd × Option FrontEvent :=
  let d := longer c f.run
  match f.level, level with
  | false, true => ({ level := true, run := 0, off := d, window := 0 }, some .rise)
  | true, false => ({ f with level := false, run := 0, window := 0 }, some (.sample f.off d))
  | _, _ =>
    if c.codec.halfNom ≤ f.window + 1 then ({ f with run := d, window := 0 }, some .tick)
    else ({ f with run := d, window := f.window + 1 }, none)

/-- The operation a front-end event is (R84, R90). -/
def execFrontEvent (e : FrontEvent) (s : State) : Host.Outcome State Fault Refusal :=
  match e with
  | .rise => execRxRise s
  | .sample off on => execRxSample off on s
  | .tick => execRxTick s

/-- One capture clock of the whole machine: the front end moves, and what it emits is executed (R39, R90). -/
def clockLine (level : Bool) (s : State) : Host.Outcome State Fault Refusal :=
  let (f, e) := clockFrontEnd s.cfg level s.frontEnd
  let t : State := { s with frontEnd := f }
  match e with
  | none => .next t
  | some ev => execFrontEvent ev t

/-- The line stays at a level for `n` capture clocks. -/
def holdLine (level : Bool) : Nat → State → Host.Outcome State Fault Refusal
  | 0, s => .next s
  | n + 1, s => andThen (clockLine level s) (holdLine level n)

/-- The line carries half-bits at ideal timing, `HALF_NOM` clocks each (R18, R91). -/
def carryLevels : List Bool → State → Host.Outcome State Fault Refusal
  | [], s => .next s
  | l :: ls, s => andThen (holdLine l s.cfg.codec.halfNom s) (carryLevels ls)

/-- Front-end events executed in order. -/
def execFrontEvents : List FrontEvent → State → Host.Outcome State Fault Refusal
  | [], s => .next s
  | e :: es, s => andThen (execFrontEvent e s) (execFrontEvents es)

/-- The front end alone over `n` clocks at a level: where it ends and what it emitted. -/
def holdFrontEnd (c : Config) (level : Bool) : Nat → FrontEnd → FrontEnd × List FrontEvent
  | 0, f => (f, [])
  | n + 1, f =>
    let (g, e) := clockFrontEnd c level f
    let (h, es) := holdFrontEnd c level n g
    (h, e.toList ++ es)

/-- The front end alone over a list of runs (R91). -/
def runFrontEnd (c : Config) : List (Bool × Nat) → FrontEnd → FrontEnd × List FrontEvent
  | [], f => (f, [])
  | (l, d) :: rs, f =>
    let (g, es) := holdFrontEnd c l d f
    let (h, fs) := runFrontEnd c rs g
    (h, es ++ fs)

/-- The ticks inside a run of `d` clocks: one at each `k * HALF_NOM < d`, `k >= 1` (R90). -/
def ticksIn (c : CodecRegs) (d : Nat) : List FrontEvent := List.replicate ((d - 1) / c.halfNom) .tick

/-- `Capture` from the rising edge that opens an on run (R91): runs come in pairs, an on run and the off run after it;
`gap` is the duration of the off run before; the last off run is unbounded, and `trail` of its ticks are taken. -/
def capturePairs (c : CodecRegs) (trail : Nat) : List (Nat × Nat) → Nat → Nat → List FrontEvent
  | [], gap, last =>
    .rise :: ticksIn c last ++ [.sample gap last] ++ List.replicate trail .tick
  | (on, off) :: rs, gap, last =>
    .rise :: ticksIn c on ++ [.sample gap on] ++ ticksIn c off ++ capturePairs c trail rs off last

/-- `Capture(runs, g)` (R91): `pairs` are the bounded on and off runs, `last` is the on run before the unbounded off
run. -/
def capture (c : CodecRegs) (pairs : List (Nat × Nat)) (last gap trail : Nat) : List FrontEvent :=
  capturePairs c trail pairs gap last

/-- The half-bits of a frame grouped into runs: level and how many half-bits (R18, R91). -/
def runLengths : List Bool → List (Bool × Nat)
  | [] => []
  | l :: ls =>
    match runLengths ls with
    | (m, n) :: rs => if l = m then (m, n + 1) :: rs else (l, 1) :: (m, n) :: rs
    | [] => [(l, 1)]

/-- The durations of on and off runs taken in pairs, and the last on run apart (R91). -/
def pairUp : List Nat → List (Nat × Nat) × Nat
  | on :: off :: on' :: ds =>
    let (ps, last) := pairUp (on' :: ds)
    ((on, off) :: ps, last)
  | on :: _ => ([], on)
  | [] => ([], 0)

/-- The durations of the runs of a frame at ideal timing, up to its last off run, which is unbounded (R91). -/
def idealRuns (r : CodecRegs) (d : List Byte) : List Nat :=
  ((runLengths (frame r d)).map fun run => run.2 * r.halfNom).dropLast

end Sys2Proof.Machine
end

