-- ==== Sys2Proof/Machine/LineCode.lean ====
section
/-! DEFINITION. The line symbols: the line carries the half-bits of the symbol at ideal timing, the front end watches
it and the receiver executes what the front end emits (R81 to R83, R90, R91, R102; log entry 5). -/

namespace Sys2Proof.Machine

/-- `DATA_BIT_0`: the half-bits `(0, 1)` (R81). -/
def execDataBit0 (s : State) : Host.Outcome State Fault Refusal := carryLevels (bitCell false) s

/-- `DATA_BIT_1`: the half-bits `(1, 0)` (R81). -/
def execDataBit1 (s : State) : Host.Outcome State Fault Refusal := carryLevels (bitCell true) s

/-- `SYNC_PAIR`: the half-bits `(1, 0)` (R82). -/
def execSyncPair (s : State) : Host.Outcome State Fault Refusal := carryLevels (syncLevels 2) s

/-- `STOP_HALFBIT`: the half-bit `0` (R83). -/
def execStopHalfbit (s : State) : Host.Outcome State Fault Refusal := carryLevels [false] s

end Sys2Proof.Machine
end

