-- ==== Sys2Proof/Machine/ResetOp.lean ====
section
/-! DEFINITION. The operation `RESET` (R240). -/

namespace Sys2Proof.Machine

/-- The transmit registers after the n-th `RESET` (R50): those the table calls unspecified are free values
(log entry 12). -/
def resetTx (c : Config) (n : Nat) : Tx :=
  { Tx.reset with
    txBuf := Memory.fill c.nmax (Config.unspecifiedTx n)
    txTask := (Config.unspecified n).txTask % 2 ^ c.taskW }

/-- The receive registers after the n-th `RESET` (R50; log entry 12). -/
def resetRx (c : Config) (n : Nat) : Rx :=
  { Rx.reset with
    rxBuf := Memory.fill c.nmax (Config.unspecifiedRx n)
    rxTask := (Config.unspecified n).rxTask % 2 ^ c.taskW }

/-- The fade registers after the n-th `RESET` (R50): the host's parameter registers are free values until it loads
them (log entry 12). -/
def resetFade (n : Nat) : Fade :=
  let u := Config.unspecified n
  { Fade.reset with
    minLevel := u.minLevel
    maxLevel := u.maxLevel
    physicalMinLevel := u.physicalMinLevel
    fadeTime := u.fadeTime
    fadeRate := u.fadeRate
    fastFadeTime := u.fastFadeTime
    curveSel := if u.linear then .linear else .logarithmic }

/-- `RESET` (R240): every register of R50 takes its value, `evQ` becomes empty, nothing is posted and nothing pushed;
the host has to load its parameters again (R244).
The parameters (R51) and the front end (R90, which no rule resets; log entry 17) keep theirs. -/
def execReset (s : State) : Host.Outcome State Fault Refusal :=
  .next
    { s with
      tx := resetTx s.cfg s.freeCount
      rx := resetRx s.cfg s.freeCount
      evQ := []
      fade := resetFade s.freeCount
      loaded := Loaded.reset
      freeCount := s.freeCount + 1 }

end Sys2Proof.Machine
end

