-- ==== Sys2Proof/Machine/Unassigned.lean ====
section
/-! DEFINITION. The unassigned operation codes: not operations, and a model refuses them (R97, U5; log entry 4). -/

namespace Sys2Proof.Machine

/-- Refuse an illegal operation code: no next state, so nothing changes and nothing is posted (R97, R218). -/
def refuseCode (code : Nat) (_s : State) : Host.Outcome State Fault Refusal := .refused (.illegalOperation code)

/-- Code `0x0` (R97). -/
def execUnassigned0 (s : State) : Host.Outcome State Fault Refusal := refuseCode 0 s

/-- Code `0xA` (R97). -/
def execUnassignedA (s : State) : Host.Outcome State Fault Refusal := refuseCode 10 s

/-- Code `0xB` (R97). -/
def execUnassignedB (s : State) : Host.Outcome State Fault Refusal := refuseCode 11 s

/-- Code `0xC` (R97). -/
def execUnassignedC (s : State) : Host.Outcome State Fault Refusal := refuseCode 12 s

/-- Code `0xD` (R97). -/
def execUnassignedD (s : State) : Host.Outcome State Fault Refusal := refuseCode 13 s

/-- Code `0xE` (R97). -/
def execUnassignedE (s : State) : Host.Outcome State Fault Refusal := refuseCode 14 s

end Sys2Proof.Machine
end

