-- ==== Sys2Proof/Machine/Dispatch.lean ====
section
/-! DEFINITION. The dispatch: one arm per instruction. -/

namespace Sys2Proof.Machine

def exec (i : Instr) (s : State) : Host.Outcome State Fault Refusal :=
  match i with
  | .transmit task data => Sys2Proof.Machine.execTransmit task data s
  | .receive len task => Sys2Proof.Machine.execReceive len task s
  | .stopReceive => Sys2Proof.Machine.execStopReceive s
  | .txTick => Sys2Proof.Machine.execTxTick s
  | .rxRise => Sys2Proof.Machine.execRxRise s
  | .rxSample off on => Sys2Proof.Machine.execRxSample off on s
  | .rxTick => Sys2Proof.Machine.execRxTick s
  | .fadeSetup => Sys2Proof.Machine.execFadeSetup s
  | .fadeTick ledOk => Sys2Proof.Machine.execFadeTick ledOk s
  | .reset => Sys2Proof.Machine.execReset s
  | .unassigned0 => Sys2Proof.Machine.execUnassigned0 s
  | .unassignedA => Sys2Proof.Machine.execUnassignedA s
  | .unassignedB => Sys2Proof.Machine.execUnassignedB s
  | .unassignedC => Sys2Proof.Machine.execUnassignedC s
  | .unassignedD => Sys2Proof.Machine.execUnassignedD s
  | .unassignedE => Sys2Proof.Machine.execUnassignedE s
  | .dataBit0 => Sys2Proof.Machine.execDataBit0 s
  | .dataBit1 => Sys2Proof.Machine.execDataBit1 s
  | .syncPair => Sys2Proof.Machine.execSyncPair s
  | .stopHalfbit => Sys2Proof.Machine.execStopHalfbit s
  | .dec0 => Sys2Proof.Machine.execDec0 s
  | .dec1 => Sys2Proof.Machine.execDec1 s
  | .dec2 => Sys2Proof.Machine.execDec2 s
  | .dec3 => Sys2Proof.Machine.execDec3 s
  | .dec4 => Sys2Proof.Machine.execDec4 s
  | .dec5 => Sys2Proof.Machine.execDec5 s
  | .dec6 => Sys2Proof.Machine.execDec6 s
  | .dec7 => Sys2Proof.Machine.execDec7 s

end Sys2Proof.Machine
end

