-- ==== Sys2Proof/Machine/Inputs.lean ====
section
/-! DEFINITION. What arrives at the machine's ports and what each arrival does: operation words (R84, R87), the
host's actions (R36, R53, R76, R102), a change of configuration (R75, R248), a capture clock (R90); and the order of
arrivals that fall in the same clock (R224). -/

namespace Sys2Proof.Machine

/-- The host writes one of its registers (R53, R102). -/
def applyHostWrite (w : HostWrite) (f : Fade) : Fade :=
  match w with
  | .requestedLevel v => { f with requestedLevel := v }
  | .minLevel v => { f with minLevel := v }
  | .maxLevel v => { f with maxLevel := v }
  | .physicalMinLevel v => { f with physicalMinLevel := v }
  | .fadeTime v => { f with fadeTime := v }
  | .fadeRate v => { f with fadeRate := v }
  | .fastFadeTime v => { f with fastFadeTime := v }
  | .curveSel v => { f with curveSel := v }
  | .outputChangeRequested v => { f with outputChangeRequested := v }
  | .fadeRateRequested v => { f with fadeRateRequested := v }

/-- A parameter register the host writes counts as loaded (R244; log entry 13). -/
def noteLoaded (w : HostWrite) (l : Loaded) : Loaded :=
  match w with
  | .minLevel _ => { l with minLevel := true }
  | .maxLevel _ => { l with maxLevel := true }
  | .fadeTime _ => { l with fadeTime := true }
  | .fadeRate _ => { l with fadeRate := true }
  | .fastFadeTime _ => { l with fastFadeTime := true }
  | .curveSel _ => { l with curveSel := true }
  | .requestedLevel _ | .physicalMinLevel _ | .outputChangeRequested _ | .fadeRateRequested _ => l

/-- Nothing is in progress: both sequencers in `Done` and no ramp (R248). -/
def idle (s : State) : Bool :=
  decide (s.tx.txPhase = .done ∧ s.rx.rxPhase = .done ∧ s.fade.fadeRunning = false)

/-- The configuration after the registers and tables are re-loaded; the sizes of the hardware do not change. -/
def reload (codec : CodecRegs) (fade : FadeParams) (c : Config) : Config := { c with codec := codec, fade := fade }

/-- Re-loading the configuration has a meaning only while nothing is in progress (R75, R248, U4), and only to a
well-formed set (R8, R9, R11; log entry 21). -/
def reconfigure (codec : CodecRegs) (fade : FadeParams) (s : State) : Host.Outcome State Fault Refusal :=
  if idle s then
    if (reload codec fade s.cfg).wf then .next { s with cfg := reload codec fade s.cfg }
    else .refused .configurationIllFormed
  else .refused .configurationInUse

/-- The bytes of a word are decoded and the instruction is executed. -/
def runWord (sp : Space) (bytes : List Byte) (s : State) : Host.Outcome State Fault Refusal :=
  match decode s.cfg sp bytes with
  | .ok i => exec i s
  | .error e => .refused (.badWord e)

/-- What one arrival does (R3, R16). Taking from an empty `evQ` removes nothing (log entry 20). -/
def runInput (x : Input) (s : State) : Host.Outcome State Fault Refusal :=
  match x with
  | .word sp bytes => runWord sp bytes s
  | .hostWrite w => .next { s with fade := applyHostWrite w s.fade, loaded := noteLoaded w s.loaded }
  | .hostTake => .next { s with evQ := s.evQ.drop 1 }
  | .hostFlush task => .next { s with evQ := s.evQ.filter fun e => decide (e.task ≠ task) }
  | .reconfigure codec fade => reconfigure codec fade s
  | .lineClock level => clockLine level s

/-- Take the oldest arrival and run it; with none, nothing happens (R242; log entry 1). -/
def takeInput (s : State) : Host.Outcome State Fault Refusal :=
  match s.inputs with
  | [] => .next s
  | x :: rest => runInput x { s with inputs := rest }

/-- An instruction as it arrives: its word in its space. -/
def inputOf (c : Config) (i : Instr) : Input := .word i.space (encode c i)

/-- The edge the front end sees in a clock. -/
inductive Edge where
  | rise
  | fall (off on : Nat)
  deriving DecidableEq, Repr

/-- What the hardware sees in one capture clock (R224). -/
structure SameClock where
  rst : Bool
  txTick : Bool
  edge : Option Edge
  rxTick : Bool
  host : List Input
  fadeTick : Option Bool
  deriving DecidableEq, Repr

/-- The operation of an edge (R90). -/
def edgeInstr : Edge → Instr
  | .rise => .rxRise
  | .fall off on => .rxSample off on

/-- The order of simultaneous inputs (R224): `RESET` alone; else `TX_TICK`, the edge, `RX_TICK` unless an edge falls
in the clock, the host's commands in issue order, `FADE_TICK` last. -/
def arbitrate (c : Config) (x : SameClock) : List Input :=
  if x.rst then [inputOf c .reset]
  else
    (if x.txTick then [inputOf c .txTick] else [])
    ++ (x.edge.toList.map fun e => inputOf c (edgeInstr e))
    ++ (if x.rxTick ∧ x.edge = none then [inputOf c .rxTick] else [])
    ++ x.host
    ++ (x.fadeTick.toList.map fun l => inputOf c (.fadeTick l))

/-- One clock's inputs arrive at the machine's ports, in the order of R224 (log entry 22). -/
def arrive (x : SameClock) (s : State) : State := { s with inputs := s.inputs ++ arbitrate s.cfg x }

/-- Pseudo-operation `LISTEN task` (R102). -/
def listen (c : Config) (task : Nat) : List Input := [inputOf c (.receive 2 task)]

/-- Pseudo-operation `REPLY b, task` (R102). -/
def reply (c : Config) (b : Byte) (task : Nat) : List Input := [inputOf c (.transmit task [b])]

/-- Pseudo-operation `RESTART_RX task`, which repeats the last length (R102). -/
def restartRx (s : State) (task : Nat) : List Input := [inputOf s.cfg (.receive s.rx.rxLen task)]

/-- Pseudo-operation `REQUEST_LEVEL v` (R102). -/
def requestLevel (c : Config) (v : Level) : List Input :=
  [.hostWrite (.requestedLevel v), .hostWrite (.outputChangeRequested true), inputOf c .fadeSetup]

/-- The operation of a front-end event (R90). -/
def frontInstr : FrontEvent → Instr
  | .rise => .rxRise
  | .sample off on => .rxSample off on
  | .tick => .rxTick

/-- Pseudo-operation `SEND_FRAME d` on the receive side: the events of the frame at ideal timing after a saturated
gap, up to the `NSTOP`-th trailing tick (R102). DESIGN CHOICE (log entry 26): R102 writes the gap as 65535, which is the
saturated duration for `DUR_W = 16`; for another width the model takes `2^DUR_W - 1`. -/
def sendFrame (c : Config) (d : List Byte) : List Input :=
  let (ps, last) := pairUp (idealRuns c.codec d)
  (capture c.codec ps last c.durMax c.codec.nstop).map fun e => inputOf c (frontInstr e)

end Sys2Proof.Machine
end

