-- ==== Sys2Proof/Safety.lean ====
section
/-! DEFINITION. What a safe state and a safe run are: the invariants of the blocks (R23, R24, R29, R33, R34, R49, R67,
R120, R152, R188, R250) and the preconditions the host keeps (R13). -/

namespace Sys2Proof.Machine

/-- Both buffers are in canonical form, with every listed index inside `0 .. NMAX-1` (R60, R67). -/
def BuffersCanonical (s : State) : Prop :=
  Memory.wf s.cfg.nmax s.tx.txBuf = true ∧ Memory.wf s.cfg.nmax s.rx.rxBuf = true

/-- The transmit sequencer is in a state of R127: its indices are in range (R23, R67), its counter fits (R24), and
its line is off when idle (R120). -/
def TxSane (c : Config) (t : Tx) : Prop :=
  t.txLen ≤ c.nmax ∧ t.txByte ≤ t.txLen ∧ t.txTask < 2 ^ c.taskW
  ∧ (t.txPhase = .done → t.txLine = false)
  ∧ (t.txPhase ≠ .done → 1 ≤ t.txLen)
  ∧ (t.txPhase = .syncFirstHalf → t.txCnt % 2 = 0 ∧ t.txCnt < c.codec.nsync)
  ∧ (t.txPhase = .syncSecondHalf → t.txCnt % 2 = 1 ∧ t.txCnt < c.codec.nsync)
  ∧ (t.txPhase = .syncFirstHalf ∨ t.txPhase = .syncSecondHalf → t.txByte = 0 ∧ t.txBit = 7)
  ∧ (t.txPhase = .dataFirstHalf ∨ t.txPhase = .dataSecondHalf → t.txByte < t.txLen)
  ∧ (t.txPhase = .stop → t.txByte = t.txLen ∧ t.txBit = 7 ∧ t.txCnt ≤ c.codec.nstop
      ∧ (0 < t.txCnt → t.txLine = false))

/-- The receive sequencer is in a state of R152: the bytes add up (R29), the counters fit (R33, R34), no cause is
recorded while armed (R134, R214), and each phase has its own bounds (R146, R156). -/
def RxSane (c : Config) (r : Rx) : Prop :=
  r.rxLen ≤ c.nmax ∧ r.rxByte + r.rxRemain = r.rxLen ∧ r.rxTask < 2 ^ c.taskW ∧ r.rxMiss.toNat ≤ 4
  ∧ (r.rxPhase ≠ .done → 1 ≤ r.rxLen ∧ r.rxCause = .none ∧ r.rxMiss.toNat < 4)
  ∧ (r.rxPhase = .sync → r.rxByte = 0 ∧ r.rxBitCnt = 0 ∧ r.rxStopCnt = 0 ∧ r.rxPrev = true
      ∧ r.rxSyncCnt % 2 = 0 ∧ r.rxSyncCnt < c.codec.nsync
      ∧ (r.rxEdgeSeen = false → r.rxMiss = 0 ∧ r.rxSyncCnt = 0))
  ∧ (r.rxPhase = .data → 0 < r.rxRemain ∧ r.rxEdgeSeen = true ∧ r.rxSyncCnt = c.codec.nsync ∧ r.rxStopCnt = 0)
  ∧ (r.rxPhase = .stop → r.rxRemain = 0 ∧ r.rxBitCnt = 0 ∧ r.rxEdgeSeen = true ∧ r.rxStopCnt < c.codec.nstop)

/-- The fade engine keeps R49 (ii) and (iii), and its counter is small enough that adding a tick never wraps
(R188, R199). -/
def FadeSane (f : Fade) : Prop :=
  (f.fadeRunning = false → f.fadePeriod = 0 ∧ f.fadeIncrement = 0 ∧ f.fadeCounter = 0)
  ∧ (f.fadeRunning = true → f.fadePeriod ≠ 0 ∧ f.fadePeriod.toNat < 2 ^ 31 ∧ f.fadeIncrement.toNat < 2 ^ 31
      ∧ f.fadeCounter.toNat < 2 ^ 31)
  ∧ (f.fadeRunning = true → f.fadeMode = .rate → f.fadeCounter.toNat + f.fadePeriod.toNat < 2 ^ 31)

/-- Half-duplex: the receiver is never armed while the transmitter is busy (R114, R136, R250). -/
def HalfDuplex (s : State) : Prop := s.tx.txPhase ≠ .done → s.rx.rxPhase = .done

/-- The records of the queue are as R36 says: a handle of `TASK_W` bits, and a payload only with `RecvDone`. -/
def QueueSane (s : State) : Prop :=
  ∀ e ∈ s.evQ, e.task < 2 ^ s.cfg.taskW ∧ (e.kind ≠ .recvDone → e.payload = [])
    ∧ e.payload.length ≤ s.cfg.nmax

/-- Every invariant at once. -/
structure Sane (s : State) : Prop where
  config : s.cfg.wf = true
  buffers : BuffersCanonical s
  transmitter : TxSane s.cfg s.tx
  receiver : RxSane s.cfg s.rx
  fade : FadeSane s.fade
  halfDuplex : HalfDuplex s
  queue : QueueSane s

/-- The level preconditions the host maintains (R13). -/
def LimitsLegal (f : Fade) : Prop :=
  1 ≤ f.physicalMinLevel.toNat ∧ f.physicalMinLevel ≤ f.minLevel ∧ f.minLevel ≤ f.maxLevel
    ∧ f.maxLevel.toNat ≤ 254

/-- A level strictly between 0 and the limit, or above the greatest level: where no rule moves the light (R49, R195). -/
def LevelForbidden (f : Fade) (a : Level) : Prop := (a ≠ 0 ∧ a < f.minLevel) ∨ a > f.maxLevel

/-- The target of a running ramp has been clamped (R172, R195). -/
def TargetClamped (f : Fade) : Prop := ¬ LevelForbidden f f.requestedLevel

/-- The packer has taken bit `b`, from receive registers `r` to `r'`, as R146 says it: `n` is the capacity of the
buffer. `rxPrev` is not its business. -/
def Packed (n : Nat) (b : Bool) (r r' : Rx) : Prop :=
  r'.rxShift = shiftIn r.rxShift b
  ∧ r'.rxLen = r.rxLen ∧ r'.rxSyncCnt = r.rxSyncCnt ∧ r'.rxMiss = r.rxMiss ∧ r'.rxEdgeSeen = r.rxEdgeSeen
  ∧ r'.rxTask = r.rxTask ∧ r'.rxCause = r.rxCause
  ∧ (r.rxBitCnt ≠ 7 → r'.rxBitCnt = r.rxBitCnt + 1 ∧ r'.rxBuf = r.rxBuf ∧ r'.rxByte = r.rxByte
      ∧ r'.rxRemain = r.rxRemain ∧ r'.rxStopCnt = r.rxStopCnt ∧ r'.rxPhase = r.rxPhase)
  ∧ (r.rxBitCnt = 7 → r'.rxBitCnt = 0 ∧ r'.rxByte = r.rxByte + 1 ∧ r'.rxRemain = r.rxRemain - 1
      ∧ (Memory.wf n r.rxBuf = true → Memory.read r'.rxBuf r.rxByte = r'.rxShift)
      ∧ (∀ j, j ≠ r.rxByte → Memory.read r'.rxBuf j = Memory.read r.rxBuf j)
      ∧ (r'.rxRemain = 0 → r'.rxPhase = .stop ∧ r'.rxStopCnt = 0)
      ∧ (r'.rxRemain ≠ 0 → r'.rxPhase = r.rxPhase ∧ r'.rxStopCnt = r.rxStopCnt))

/-- A sample is an entry of the table that emits 0 then 1: indices 1 and 7 (R94). -/
def EmitsTwo (prev : Bool) (cOff cOn : DurClass) : Prop :=
  (prev = false ∧ cOff = .half ∧ cOn = .full) ∨ (prev = true ∧ cOff = .full ∧ cOn = .full)

/-- A sample of the data phase that no rule accepts: a class outside both windows, or indices 2, 3 and 5 (R94, R210
X3 and X4). -/
def EmitsNone (prev : Bool) (cOff cOn : DurClass) : Prop :=
  cOff = .invalid ∨ cOn = .invalid ∨ (prev = false ∧ cOff = .full) ∨ (prev = true ∧ cOff = .half ∧ cOn = .full)

/-- The conditions X1 to X7 under which an operation raises `FrameTimingError` (R210). -/
def RaisesTiming (i : Instr) (s : State) : Prop :=
  match i with
  | .rxRise => s.rx.rxPhase = .stop
  | .rxSample off on =>
    s.rx.rxPhase = .stop
    ∨ (s.rx.rxPhase = .sync ∧ s.rx.rxSyncCnt = 0 ∧ classify s.cfg.codec on ≠ .half)
    ∨ (s.rx.rxPhase = .sync ∧ 0 < s.rx.rxSyncCnt
        ∧ ¬ (classify s.cfg.codec off = .half ∧ classify s.cfg.codec on = .half))
    ∨ (s.rx.rxPhase = .data ∧ EmitsNone s.rx.rxPrev (classify s.cfg.codec off) (classify s.cfg.codec on))
    ∨ (s.rx.rxPhase = .data ∧ EmitsTwo s.rx.rxPrev (classify s.cfg.codec off) (classify s.cfg.codec on)
        ∧ s.rx.rxBitCnt = 7 ∧ s.rx.rxRemain = 1)
  | _ => False

/-- The condition X8 under which an operation raises `FrameTimeoutError` (R210). -/
def RaisesTimeout (i : Instr) (s : State) : Prop :=
  i = .rxTick ∧ (s.rx.rxPhase = .sync ∨ s.rx.rxPhase = .data) ∧ s.rx.rxEdgeSeen = true ∧ s.rx.rxMiss = 3

/-- How far a receive operation has come: `Sync`, `Data`, `Stop`, `Done` (R130). -/
def rxRank : RxPhase → Nat
  | .sync => 0
  | .data => 1
  | .stop => 2
  | .done => 3

/-- The phase a `TX_TICK` leads to (the arcs of R127). -/
def txNextPhase (c : CodecRegs) (t : Tx) : TxPhase :=
  match t.txPhase with
  | .syncFirstHalf => .syncSecondHalf
  | .syncSecondHalf => if c.nsync ≤ t.txCnt + 1 then .dataFirstHalf else .syncFirstHalf
  | .dataFirstHalf => .dataSecondHalf
  | .dataSecondHalf => if t.txBit = 0 ∧ t.txByte + 1 = t.txLen then .stop else .dataFirstHalf
  | .stop => if t.txCnt < c.nstop then .stop else .done
  | .done => .done

/-- A level is strictly before the target of a ramp in a direction (R186). -/
def Before (d : Direction) (target a : Level) : Prop :=
  match d with
  | .up => a < target
  | .down => a > target

/-- An outcome that is no fault. -/
def NoFault (o : Host.Outcome State Fault Refusal) : Prop := ∀ r, o ≠ .fault r

/-- The operations of the codec other than `RESET` (R84): the three commands, the tick and the three front-end
events. -/
def Instr.isCodecOp : Instr → Bool
  | .transmit _ _ | .receive _ _ | .stopReceive | .txTick | .rxRise | .rxSample _ _ | .rxTick => true
  | _ => false

/-- The operations of the fade engine (R170). -/
def Instr.isFadeOp : Instr → Bool
  | .fadeSetup | .fadeTick _ => true
  | _ => false

/-- Fade ticks in a row, each with the status of the lamp it samples (R48). -/
def fadeTicks : List Bool → State → Host.Outcome State Fault Refusal
  | [], s => .next s
  | l :: ls, s => andThen (exec (.fadeTick l) s) (fadeTicks ls)

/-- One step of a level in a direction (R171). -/
def stepLevel (d : Direction) (minLevel a : Level) : Level :=
  match d with
  | .up => stepUp minLevel a
  | .down => stepDown minLevel a

/-- `n` steps of a level in a direction (R171). -/
def stepLevels (d : Direction) (minLevel : Level) : Nat → Level → Level
  | 0, a => a
  | n + 1, a => stepLevels d minLevel n (stepLevel d minLevel a)

/-- The line carries the frame with each half-bit of its own duration: one duration for each run of the frame before
the last off run, each inside the window of its length (R91, R164). -/
def RunsFit (r : CodecRegs) : List (Bool × Nat) → List Nat → Prop
  | [], ds => ds = []
  | [_], ds => ds = []
  | (_, n) :: rs, ds =>
    match ds with
    | [] => False
    | d :: ds' => classify r d = (if n = 1 then .half else .full) ∧ RunsFit r rs ds'

end Sys2Proof.Machine
end

