-- ==== Sys2Proof/Certificates/Slice0/Obligations.lean ====
section
/-! DEFINITION. The statements for the provers. -/

open Sys2Proof Sys2Proof.Machine

/-! ## Encoding -/

/-- Decode and encode agree in every encoding space (R84, R87, R94, R103), for every instruction whose operands fit their
fields, under every parameter set. How a word is laid out in bytes is the model's choice (log entry 8). -/
def Obligations.DecodeEncodeAgree : Prop :=
  ∀ (c : Config) (i : Instr), i.wellFormed c = true → decode c i.space (encode c i) = .ok i

/-- Every word that decodes is the word of the instruction it decodes to, whose operands fit their fields. That excess
bits are refused is the model's choice (log entry 8). -/
def Obligations.DecodedWordsAreEncodedWords : Prop :=
  ∀ (c : Config) (sp : Space) (bytes : List Byte) (i : Instr), decode c sp bytes = .ok i →
    i.wellFormed c = true ∧ i.space = sp ∧ natOfBytes bytes = encodeWord c i

/-- Words of the spec's test programs (section 4 of the test vectors) decode to their operations, under the widths
given there (`TASK_W = 4`, `len` 3 bits, `DUR_W = 16`). -/
def Obligations.KnownWordsDecode : Prop :=
  decodeWord Config.start .operation 0x4005BA1 = .ok (.transmit 7 [0x0B, 0x80])
  ∧ decodeWord Config.start .operation 0x4A2 = .ok (.receive 2 9)
  ∧ decodeWord Config.start .operation 0x1A003406 = .ok (.rxSample 832 416)
  ∧ decodeWord Config.start .operation 0x19 = .ok (.fadeTick true)
  ∧ decodeWord Config.start .operation 0xF = .ok .reset

/-- The unassigned codes are refused (R97): the six instructions on every path, and every word of such a code. The
form of the refusal is the model's (log entry 4). -/
def Obligations.UnassignedCodesRefused : Prop :=
  (∀ s : State,
    exec .unassigned0 s = .refused (.illegalOperation 0) ∧ exec .unassignedA s = .refused (.illegalOperation 10)
    ∧ exec .unassignedB s = .refused (.illegalOperation 11) ∧ exec .unassignedC s = .refused (.illegalOperation 12)
    ∧ exec .unassignedD s = .refused (.illegalOperation 13) ∧ exec .unassignedE s = .refused (.illegalOperation 14))
  ∧ ∀ (s : State) (bytes : List Byte),
    (natOfBytes bytes % 16 = 0 ∨ (10 ≤ natOfBytes bytes % 16 ∧ natOfBytes bytes % 16 ≤ 14)) →
      ∃ r, runWord .operation bytes s = .refused r

/-! ## The step and the ports -/

/-- A step takes the oldest arrival; where its bytes decode, the step is exec of the instruction at the state without
that arrival; and so it is for the word placed by `withFetchWord`. A capture clock moves the front end (R39, R90), and
the step is exec of the operation the front end emits, if any. The queue of arrivals is the model's (log entry 1). -/
def Obligations.StepRunsTheDecodedInstruction : Prop :=
  (∀ (s : State) (sp : Space) (bytes : List Byte) (rest : List Input) (i : Instr),
    s.inputs = .word sp bytes :: rest → decode s.cfg sp bytes = .ok i →
      step s = exec i { s with inputs := rest })
  ∧ (∀ (s : State) (nbits w : Nat) (i : Instr), decode s.cfg .operation (tableBytes nbits w) = .ok i →
      step (s.withFetchWord nbits w) = exec i s)
  ∧ ∀ (s : State) (level : Bool) (rest : List Input), s.inputs = .lineClock level :: rest →
      let clocked := clockFrontEnd s.cfg level s.frontEnd
      (clocked.2 = none → step s = .next { s with inputs := rest, frontEnd := clocked.1 })
      ∧ ∀ e, clocked.2 = some e → step s = exec (frontInstr e) { s with inputs := rest, frontEnd := clocked.1 }

/-- Nothing happens without an arrival (R242), and the host's own actions do what R36, R53 and R76 say and nothing
else: a write changes the one register it names, and a write of a parameter register records that it is loaded (R244);
taking removes the head of the queue; flushing removes the records of one task and keeps every other, in order. Their
place in the model is its choice (log entries 1, 13 and 20). -/
def Obligations.HostActionsStep : Prop :=
  ∀ (s : State) (rest : List Input),
    (s.inputs = [] → step s = .next s)
    ∧ (∀ v, s.inputs = .hostWrite (.requestedLevel v) :: rest →
        step s = .next { s with inputs := rest, fade := { s.fade with requestedLevel := v } })
    ∧ (∀ v, s.inputs = .hostWrite (.minLevel v) :: rest →
        step s = .next { s with inputs := rest, fade := { s.fade with minLevel := v }
                                loaded := { s.loaded with minLevel := true } })
    ∧ (∀ v, s.inputs = .hostWrite (.maxLevel v) :: rest →
        step s = .next { s with inputs := rest, fade := { s.fade with maxLevel := v }
                                loaded := { s.loaded with maxLevel := true } })
    ∧ (∀ v, s.inputs = .hostWrite (.physicalMinLevel v) :: rest →
        step s = .next { s with inputs := rest, fade := { s.fade with physicalMinLevel := v } })
    ∧ (∀ v, s.inputs = .hostWrite (.fadeTime v) :: rest →
        step s = .next { s with inputs := rest, fade := { s.fade with fadeTime := v }
                                loaded := { s.loaded with fadeTime := true } })
    ∧ (∀ v, s.inputs = .hostWrite (.fadeRate v) :: rest →
        step s = .next { s with inputs := rest, fade := { s.fade with fadeRate := v }
                                loaded := { s.loaded with fadeRate := true } })
    ∧ (∀ v, s.inputs = .hostWrite (.fastFadeTime v) :: rest →
        step s = .next { s with inputs := rest, fade := { s.fade with fastFadeTime := v }
                                loaded := { s.loaded with fastFadeTime := true } })
    ∧ (∀ v, s.inputs = .hostWrite (.curveSel v) :: rest →
        step s = .next { s with inputs := rest, fade := { s.fade with curveSel := v }
                                loaded := { s.loaded with curveSel := true } })
    ∧ (∀ v, s.inputs = .hostWrite (.outputChangeRequested v) :: rest →
        step s = .next { s with inputs := rest, fade := { s.fade with outputChangeRequested := v } })
    ∧ (∀ v, s.inputs = .hostWrite (.fadeRateRequested v) :: rest →
        step s = .next { s with inputs := rest, fade := { s.fade with fadeRateRequested := v } })
    ∧ (s.inputs = .hostTake :: rest → step s = .next { s with inputs := rest, evQ := s.evQ.tail })
    ∧ (∀ k, s.inputs = .hostFlush k :: rest →
        step s = .next { s with inputs := rest, evQ := s.evQ.filter fun e => decide (e.task ≠ k) })

/-- Inputs of one capture clock are taken in the order of R224: `RESET` discards the rest; the transmit tick, the edge,
the window unless an edge falls in the clock, the host's commands in issue order, the fade tick last. -/
def Obligations.SameClockOrder : Prop :=
  ∀ (c : Config) (x : SameClock),
    (x.rst = true → arbitrate c x = [inputOf c .reset])
    ∧ (x.rst = false → ∃ a b d e,
        arbitrate c x = a ++ b ++ d ++ x.host ++ e
        ∧ (x.txTick = true → a = [inputOf c .txTick]) ∧ (x.txTick = false → a = [])
        ∧ (x.edge = some .rise → b = [inputOf c .rxRise]) ∧ (x.edge = none → b = [])
        ∧ (∀ off on, x.edge = some (.fall off on) → b = [inputOf c (.rxSample off on)])
        ∧ (x.edge ≠ none → d = [])
        ∧ (x.edge = none → x.rxTick = true → d = [inputOf c .rxTick]) ∧ (x.rxTick = false → d = [])
        ∧ (x.fadeTick = none → e = []) ∧ (∀ l, x.fadeTick = some l → e = [inputOf c (.fadeTick l)]))

/-- When a change of configuration arrives, it takes place only while nothing is in progress, and only to a well-formed
set (R75, R248); that the model refuses every other change, by the two names here, is its treatment of U4 and of a set
that R8, R9 or R11 exclude (log entry 21). -/
def Obligations.ReconfigureOnlyWhenIdle : Prop :=
  ∀ (s : State) (codec : CodecRegs) (p : FadeParams) (rest : List Input),
    s.inputs = .reconfigure codec p :: rest →
    (s.tx.txPhase = .done → s.rx.rxPhase = .done → s.fade.fadeRunning = false →
      Config.wf { s.cfg with codec := codec, fade := p } = true →
      step s = .next { s with inputs := rest, cfg := { s.cfg with codec := codec, fade := p } })
    ∧ (s.tx.txPhase = .done → s.rx.rxPhase = .done → s.fade.fadeRunning = false →
      Config.wf { s.cfg with codec := codec, fade := p } = false →
      step s = .refused .configurationIllFormed)
    ∧ (s.tx.txPhase ≠ .done ∨ s.rx.rxPhase ≠ .done ∨ s.fade.fadeRunning = true →
      step s = .refused .configurationInUse)

/-! ## Reset and the invariants -/

/-- The state after reset holds the value R50 gives, in every register for which R50 gives one. -/
def Obligations.StateAtReset : Prop :=
  let t := State.reset.tx
  let r := State.reset.rx
  let f := State.reset.fade
  (t.txPhase = .done ∧ t.txLine = false ∧ t.txLen = 0 ∧ t.txByte = 0 ∧ t.txCnt = 0 ∧ t.txBit = 7)
  ∧ (r.rxPhase = .done ∧ r.rxLen = 0 ∧ r.rxRemain = 0 ∧ r.rxByte = 0 ∧ r.rxBitCnt = 0 ∧ r.rxSyncCnt = 0
      ∧ r.rxStopCnt = 0 ∧ r.rxMiss = 0 ∧ r.rxShift = 0 ∧ r.rxPrev = true ∧ r.rxEdgeSeen = false ∧ r.rxCause = .none)
  ∧ State.reset.evQ = []
  ∧ (f.actualLevel = 0 ∧ f.requestedLevel = 0 ∧ f.fadePeriod = 0 ∧ f.fadeIncrement = 0 ∧ f.fadeCounter = 0
      ∧ f.fadeDirection = .up ∧ f.fadeMode = .time ∧ f.fadeRunning = false ∧ f.limitError = false ∧ f.lampOn = false
      ∧ f.lampFailure = false ∧ f.outputChangeRequested = false ∧ f.fadeRateRequested = false ∧ f.outLevel = 0
      ∧ f.outCurve = .logarithmic)

/-- Every invariant holds in the state after reset, and the limits are legal there. The limits and the parameters of
`State.reset` are the model's choice (log entries 2 and 11). -/
def Obligations.ResetStateIsSane : Prop := Sane State.reset ∧ LimitsLegal State.reset.fade

/-- `RESET` (R240) gives every register the value of R50 and empties the queue; it posts nothing and pushes nothing,
and leaves the parameters. The registers R50 calls unspecified are unconstrained here, but for the width of the task
handles, and the host has to load its parameters again (R244; log entry 13). The front end and the arrivals are left
alone (log entries 1 and 17). -/
def Obligations.ResetOperation : Prop :=
  ∀ s : State, ∃ t, exec .reset s = .next t
    ∧ t = { s with tx := t.tx, rx := t.rx, evQ := [], fade := t.fade, loaded := Loaded.reset, freeCount := t.freeCount }
    ∧ parametersLoaded t.loaded = false
    ∧ t.tx = { txPhase := .done, txBuf := t.tx.txBuf, txLen := 0, txByte := 0, txBit := 7, txCnt := 0, txLine := false,
               txTask := t.tx.txTask }
    ∧ t.rx = { rxPhase := .done, rxBuf := t.rx.rxBuf, rxLen := 0, rxRemain := 0, rxByte := 0, rxShift := 0,
               rxBitCnt := 0, rxPrev := true, rxSyncCnt := 0, rxStopCnt := 0, rxMiss := 0, rxEdgeSeen := false,
               rxTask := t.rx.rxTask, rxCause := .none }
    ∧ t.fade = { t.fade with
        requestedLevel := 0, actualLevel := 0, outputChangeRequested := false, fadeRateRequested := false
        fadePeriod := 0, fadeIncrement := 0, fadeCounter := 0, fadeDirection := .up, fadeMode := .time
        fadeRunning := false, limitError := false, lampOn := false, lampFailure := false, outLevel := 0
        outCurve := .logarithmic }
    ∧ t.tx.txTask < 2 ^ s.cfg.taskW ∧ t.rx.rxTask < 2 ^ s.cfg.taskW

/-- Every step keeps both buffers in canonical form, with nothing listed outside `0 .. NMAX-1` (R60, R67). The canonical
form itself, rising indices and no byte 0x00 because an unlisted index reads as 0x00, is the model's own representation
and follows from no rule (log entry 9). -/
def Obligations.BuffersStayCanonical : Prop :=
  ∀ s t : State, BuffersCanonical s → step s = .next t → BuffersCanonical t

/-- Every step keeps the transmit sequencer inside R23, R24, R67, R120 and R127. -/
def Obligations.TransmitterStaysSane : Prop :=
  ∀ s t : State, s.cfg.wf = true → TxSane s.cfg s.tx → step s = .next t → TxSane t.cfg t.tx

/-- Every step keeps the receive sequencer inside R29, R33, R34, R146, R152 and R156. -/
def Obligations.ReceiverStaysSane : Prop :=
  ∀ s t : State, s.cfg.wf = true → RxSane s.cfg s.rx → step s = .next t → RxSane t.cfg t.rx

/-- Every step keeps the ramp registers inside R49 (ii) and (iii), R188 and R199. -/
def Obligations.FadeEngineStaysSane : Prop :=
  ∀ s t : State, s.cfg.wf = true → FadeSane s.fade → step s = .next t → FadeSane t.fade

/-- Every step keeps the bus half-duplex (R114, R136, R250). -/
def Obligations.HalfDuplexIsKept : Prop := ∀ s t : State, HalfDuplex s → step s = .next t → HalfDuplex t

/-- Every step keeps every invariant at once, the records of the event queue among them (R36). The canonical form of the
buffers is the model's own representation (log entry 9), and that the configuration stays well-formed is its treatment
of a re-load (log entry 21). -/
def Obligations.EveryStepKeepsSane : Prop := ∀ s t : State, Sane s → step s = .next t → Sane t

/-- A step from a sane state never faults: no operation reaches an index outside a buffer (R67), whatever the level
registers hold (U6). -/
def Obligations.SaneStatesNeverFault : Prop := ∀ s : State, Sane s → NoFault (step s)

/-! ## Transmit -/

/-- An accepted `TRANSMIT` (R112, R114): the bytes are copied to `txBuf[0 .. len-1]`, every other byte of memory is
unchanged, the sequencer is armed and the line is not written. -/
def Obligations.TransmitAccepted : Prop :=
  ∀ (s : State) (task : Nat) (data : List Byte),
    s.tx.txPhase = .done → s.rx.rxPhase = .done → 1 ≤ data.length → data.length ≤ s.cfg.nmax →
    ∃ t, exec (.transmit task data) s = .next t
      ∧ t = { s with tx := { txPhase := .syncFirstHalf, txBuf := t.tx.txBuf, txLen := data.length, txByte := 0,
                             txBit := 7, txCnt := 0, txLine := s.tx.txLine, txTask := task } }
      ∧ txBusy t = true
      ∧ (∀ i, data.length ≤ i → Memory.read t.tx.txBuf i = Memory.read s.tx.txBuf i)
      ∧ (Memory.wf s.cfg.nmax s.tx.txBuf = true →
          ∀ (i : Nat) (h : i < data.length), Memory.read t.tx.txBuf i = data[i])

/-- A command whose acceptance condition fails changes no register and posts no event (R114, R136, R218). That the
machine goes on, rather than stopping, is the model's reading (log entry 3). -/
def Obligations.RefusedCommandsChangeNothing : Prop :=
  (∀ (s : State) (task : Nat) (data : List Byte),
    (s.tx.txPhase ≠ .done ∨ s.rx.rxPhase ≠ .done ∨ data.length = 0 ∨ s.cfg.nmax < data.length) →
      exec (.transmit task data) s = .next s)
  ∧ ∀ (s : State) (len task : Nat), (s.tx.txPhase ≠ .done ∨ len = 0 ∨ s.cfg.nmax < len) →
      exec (.receive len task) s = .next s

/-- `TX_TICK` outside the data phases (R118): the sync half-bits, the stop half-bits, the completion one period after
the last of them (R122), and nothing when idle. -/
def Obligations.TxTickOutsideData : Prop :=
  ∀ s : State,
    (s.tx.txPhase = .syncFirstHalf → exec .txTick s =
      .next { s with tx := { s.tx with txLine := true, txCnt := s.tx.txCnt + 1, txPhase := .syncSecondHalf } })
    ∧ (s.tx.txPhase = .syncSecondHalf → s.cfg.codec.nsync ≤ s.tx.txCnt + 1 → exec .txTick s =
      .next { s with tx := { s.tx with txLine := false, txCnt := 0, txPhase := .dataFirstHalf } })
    ∧ (s.tx.txPhase = .syncSecondHalf → s.tx.txCnt + 1 < s.cfg.codec.nsync → exec .txTick s =
      .next { s with tx := { s.tx with txLine := false, txCnt := s.tx.txCnt + 1, txPhase := .syncFirstHalf } })
    ∧ (s.tx.txPhase = .stop → s.tx.txCnt < s.cfg.codec.nstop → exec .txTick s =
      .next { s with tx := { s.tx with txLine := false, txCnt := s.tx.txCnt + 1 } })
    ∧ (s.tx.txPhase = .stop → s.cfg.codec.nstop ≤ s.tx.txCnt → exec .txTick s =
      .next { s with tx := { s.tx with txPhase := .done }, evQ := s.evQ ++ [⟨s.tx.txTask, .xmitDone, []⟩] })
    ∧ (s.tx.txPhase = .done → exec .txTick s = .next s)

/-- `TX_TICK` in the data phases (R118): the bit, then its complement and the next bit or byte; an index the buffer does
not have faults (log entry 10), which no sane state reaches. -/
def Obligations.TxTickInData : Prop :=
  ∀ s : State, s.tx.txByte < s.cfg.nmax →
    (s.tx.txPhase = .dataFirstHalf → exec .txTick s =
      .next { s with tx := { s.tx with
        txLine := (Memory.read s.tx.txBuf s.tx.txByte).getLsbD s.tx.txBit.toNat, txPhase := .dataSecondHalf } })
    ∧ (s.tx.txPhase = .dataSecondHalf → s.tx.txBit ≠ 0 → exec .txTick s =
      .next { s with tx := { s.tx with
        txLine := !(Memory.read s.tx.txBuf s.tx.txByte).getLsbD s.tx.txBit.toNat
        txBit := s.tx.txBit - 1, txPhase := .dataFirstHalf } })
    ∧ (s.tx.txPhase = .dataSecondHalf → s.tx.txBit = 0 → s.tx.txByte + 1 ≠ s.tx.txLen → exec .txTick s =
      .next { s with tx := { s.tx with
        txLine := !(Memory.read s.tx.txBuf s.tx.txByte).getLsbD 0
        txBit := 7, txByte := s.tx.txByte + 1, txPhase := .dataFirstHalf } })
    ∧ (s.tx.txPhase = .dataSecondHalf → s.tx.txBit = 0 → s.tx.txByte + 1 = s.tx.txLen → exec .txTick s =
      .next { s with tx := { s.tx with
        txLine := !(Memory.read s.tx.txBuf s.tx.txByte).getLsbD 0
        txBit := 7, txByte := s.tx.txByte + 1, txCnt := 0, txPhase := .stop } })

/-- What is on the line (R124): after an accepted `TRANSMIT` and `k` ticks the line has the level of half-bit `k - 1`
of the frame of R85. -/
def Obligations.TicksDriveTheFrame : Prop :=
  ∀ (s : State) (task : Nat) (d : List Byte) (k : Nat),
    s.cfg.codec.wf = true → Memory.wf s.cfg.nmax s.tx.txBuf = true →
    s.tx.txPhase = .done → s.rx.rxPhase = .done → 1 ≤ d.length → d.length ≤ s.cfg.nmax →
    1 ≤ k → k ≤ s.cfg.codec.nsync + 16 * d.length + s.cfg.codec.nstop →
    ∃ t, andThen (exec (.transmit task d) s) (txTicks k) = .next t
      ∧ (frame s.cfg.codec d)[k - 1]? = some t.tx.txLine

/-- Tick count (R126): the operation is completed by exactly `NSYNC + 16*len + NSTOP + 1` ticks; `XmitDone` is posted by
the last of them, once, and by none before (R162). -/
def Obligations.TransmissionTakesItsTicks : Prop :=
  ∀ (s : State) (task : Nat) (d : List Byte),
    s.cfg.codec.wf = true →
    s.tx.txPhase = .done → s.rx.rxPhase = .done → 1 ≤ d.length → d.length ≤ s.cfg.nmax →
    (∀ k, k ≤ s.cfg.codec.nsync + 16 * d.length + s.cfg.codec.nstop →
      ∃ t, andThen (exec (.transmit task d) s) (txTicks k) = .next t ∧ txBusy t = true ∧ t.evQ = s.evQ)
    ∧ ∃ t, andThen (exec (.transmit task d) s)
          (txTicks (s.cfg.codec.nsync + 16 * d.length + s.cfg.codec.nstop + 1)) = .next t
        ∧ txBusy t = false ∧ t.evQ = s.evQ ++ [⟨task, .xmitDone, []⟩]

/-- Every arc of the transmit sequencer, and nothing else changes its state (R127): the tick's, with `XmitDone` on the
arc that leaves the stop phase; `TRANSMIT`'s, accepted or refused; `RESET`'s. -/
def Obligations.TransmitterArcs : Prop :=
  ∀ (s t : State) (i : Instr), exec i s = .next t →
    (i = .txTick → t.tx.txPhase = txNextPhase s.cfg.codec s.tx
      ∧ (s.tx.txPhase = .stop ∧ s.cfg.codec.nstop ≤ s.tx.txCnt → t.evQ = s.evQ ++ [⟨s.tx.txTask, .xmitDone, []⟩])
      ∧ (¬ (s.tx.txPhase = .stop ∧ s.cfg.codec.nstop ≤ s.tx.txCnt) → t.evQ = s.evQ))
    ∧ (∀ task d, i = .transmit task d →
        (s.tx.txPhase = .done ∧ s.rx.rxPhase = .done ∧ 1 ≤ d.length ∧ d.length ≤ s.cfg.nmax →
          t.tx.txPhase = .syncFirstHalf)
        ∧ (¬ (s.tx.txPhase = .done ∧ s.rx.rxPhase = .done ∧ 1 ≤ d.length ∧ d.length ≤ s.cfg.nmax) → t.tx = s.tx))
    ∧ (i = .reset → t.tx.txPhase = .done)
    ∧ (i ≠ .txTick → i ≠ .reset → (∀ task d, i ≠ .transmit task d) → t.tx = s.tx)

/-! ## Receive -/

/-- An accepted `RECEIVE` (R134, R136), from any receive phase: every receive register but `rxBuf` is initialised, and
nothing else changes. -/
def Obligations.ReceiveArms : Prop :=
  ∀ (s : State) (len task : Nat), s.tx.txPhase = .done → 1 ≤ len → len ≤ s.cfg.nmax →
    exec (.receive len task) s = .next { s with rx :=
      { rxPhase := .sync, rxBuf := s.rx.rxBuf, rxLen := len, rxRemain := len, rxByte := 0, rxShift := 0, rxBitCnt := 0,
        rxPrev := true, rxSyncCnt := 0, rxStopCnt := 0, rxMiss := 0, rxEdgeSeen := false, rxTask := task,
        rxCause := .none } }

/-- `STOP_RECEIVE` (R138) writes the phase and nothing else, and posts nothing. -/
def Obligations.StopReceiveDisables : Prop :=
  ∀ s : State, exec .stopReceive s = .next { s with rx := { s.rx with rxPhase := .done } }

/-- `RX_RISE` in each phase (R142). -/
def Obligations.RiseByPhase : Prop :=
  ∀ s : State,
    (s.rx.rxPhase = .done → exec .rxRise s = .next s)
    ∧ (s.rx.rxPhase = .stop → exec .rxRise s =
      .next { s with rx := { s.rx with rxCause := .frameTimingError, rxPhase := .done }
                     evQ := s.evQ ++ [⟨s.rx.rxTask, .recvError, []⟩] })
    ∧ (s.rx.rxPhase = .sync ∨ s.rx.rxPhase = .data → s.rx.rxEdgeSeen = false → exec .rxRise s =
      .next { s with rx := { s.rx with rxEdgeSeen := true, rxMiss := 0 }
                     evQ := s.evQ ++ [⟨s.rx.rxTask, .recvEdge, []⟩] })
    ∧ (s.rx.rxPhase = .sync ∨ s.rx.rxPhase = .data → s.rx.rxEdgeSeen = true → exec .rxRise s =
      .next { s with rx := { s.rx with rxMiss := 0 } })

/-- A sample in `Sync` (R140, R144): the first ignores its off duration and must be on for a half-bit, each further one
must be `(Half, Half)`; each counts two, and at `NSYNC` the data phase begins; any other aborts. The first edge is
announced first. -/
def Obligations.SampleInSync : Prop :=
  ∀ (s : State) (off on : Nat), s.rx.rxPhase = .sync →
    let edge : List Event := if s.rx.rxEdgeSeen then [] else [⟨s.rx.rxTask, .recvEdge, []⟩]
    let ok : Prop := classify s.cfg.codec on = .half ∧ (s.rx.rxSyncCnt = 0 ∨ classify s.cfg.codec off = .half)
    (ok → s.rx.rxSyncCnt + 2 < s.cfg.codec.nsync → exec (.rxSample off on) s =
      .next { s with rx := { s.rx with rxEdgeSeen := true, rxMiss := 0, rxSyncCnt := s.rx.rxSyncCnt + 2
                                       rxPrev := decide (s.rx.rxSyncCnt = 0) || s.rx.rxPrev }
                     evQ := s.evQ ++ edge })
    ∧ (ok → s.cfg.codec.nsync ≤ s.rx.rxSyncCnt + 2 → exec (.rxSample off on) s =
      .next { s with rx := { s.rx with rxEdgeSeen := true, rxMiss := 0, rxSyncCnt := s.rx.rxSyncCnt + 2
                                       rxPrev := decide (s.rx.rxSyncCnt = 0) || s.rx.rxPrev, rxPhase := .data }
                     evQ := s.evQ ++ edge })
    ∧ (¬ ok → exec (.rxSample off on) s =
      .next { s with rx := { s.rx with rxEdgeSeen := true, rxMiss := 0, rxCause := .frameTimingError, rxPhase := .done }
                     evQ := s.evQ ++ edge ++ [⟨s.rx.rxTask, .recvError, []⟩] })

/-- A sample while disabled does nothing, and one in the stop phase is `FrameTimingError` (R144, R154). -/
def Obligations.SampleWhenDoneOrStopped : Prop :=
  ∀ (s : State) (off on : Nat),
    (s.rx.rxPhase = .done → exec (.rxSample off on) s = .next s)
    ∧ (s.rx.rxPhase = .stop → exec (.rxSample off on) s =
      .next { s with rx := { s.rx with rxCause := .frameTimingError, rxPhase := .done }
                     evQ := s.evQ ++ [⟨s.rx.rxTask, .recvError, []⟩] })

/-- A sample in `Data` whose entry emits one bit (R94 indices 0, 4 and 6; R144, R146): the bit is packed and becomes the
previous bit, and nothing outside the receive registers changes. -/
def Obligations.SampleEmitsOneBit : Prop :=
  ∀ (s : State) (off on : Nat) (b : Bool), s.rx.rxPhase = .data → s.rx.rxByte < s.cfg.nmax →
    ((s.rx.rxPrev = false ∧ classify s.cfg.codec off = .half ∧ classify s.cfg.codec on = .half ∧ b = false)
      ∨ (s.rx.rxPrev = true ∧ classify s.cfg.codec off = .half ∧ classify s.cfg.codec on = .half ∧ b = true)
      ∨ (s.rx.rxPrev = true ∧ classify s.cfg.codec off = .full ∧ classify s.cfg.codec on = .half ∧ b = false)) →
    ∃ t, exec (.rxSample off on) s = .next t ∧ t = { s with rx := t.rx }
      ∧ Packed s.cfg.nmax b { s.rx with rxMiss := 0 } t.rx ∧ t.rx.rxPrev = b

/-- A sample in `Data` whose entry emits 0 then 1 (R94 indices 1 and 7; R144, R146): both bits are packed and the
previous bit is 1; but where the 0 completes the last byte the 1 is a bit beyond the requested length, and the operation
aborts with the 0 already packed (R210 X5, R214). -/
def Obligations.SampleEmitsTwoBits : Prop :=
  ∀ (s : State) (off on : Nat), s.rx.rxPhase = .data → s.rx.rxByte < s.cfg.nmax →
    EmitsTwo s.rx.rxPrev (classify s.cfg.codec off) (classify s.cfg.codec on) →
    ∃ t mid, exec (.rxSample off on) s = .next t ∧ Packed s.cfg.nmax false { s.rx with rxMiss := 0 } mid
      ∧ (mid.rxPhase = .data →
          t = { s with rx := t.rx } ∧ Packed s.cfg.nmax true mid t.rx ∧ t.rx.rxPrev = true)
      ∧ (mid.rxPhase ≠ .data →
          t = { s with rx := { mid with rxPrev := s.rx.rxPrev, rxCause := .frameTimingError, rxPhase := .done }
                       evQ := s.evQ ++ [⟨s.rx.rxTask, .recvError, []⟩] })

/-- A sample in `Data` with a duration outside both windows, or whose entry is `Error` (R94 indices 2, 3 and 5), aborts
with no bit packed (R144, R210 X3 and X4, R212). -/
def Obligations.SampleAborts : Prop :=
  ∀ (s : State) (off on : Nat), s.rx.rxPhase = .data →
    EmitsNone s.rx.rxPrev (classify s.cfg.codec off) (classify s.cfg.codec on) →
    exec (.rxSample off on) s =
      .next { s with rx := { s.rx with rxMiss := 0, rxCause := .frameTimingError, rxPhase := .done }
                     evQ := s.evQ ++ [⟨s.rx.rxTask, .recvError, []⟩] }

/-- `RX_TICK` in each phase (R150): ignored before the first edge, counted after it, a timeout at the fourth; in the stop
phase the `NSTOP`-th delivers the frame with its bytes as payload (R158). -/
def Obligations.RxTickByPhase : Prop :=
  ∀ s : State,
    (s.rx.rxPhase = .done → exec .rxTick s = .next s)
    ∧ (s.rx.rxPhase = .sync ∨ s.rx.rxPhase = .data → s.rx.rxEdgeSeen = false → exec .rxTick s = .next s)
    ∧ (s.rx.rxPhase = .sync ∨ s.rx.rxPhase = .data → s.rx.rxEdgeSeen = true → s.rx.rxMiss ≠ 3 → exec .rxTick s =
      .next { s with rx := { s.rx with rxMiss := s.rx.rxMiss + 1 } })
    ∧ (s.rx.rxPhase = .sync ∨ s.rx.rxPhase = .data → s.rx.rxEdgeSeen = true → s.rx.rxMiss = 3 → exec .rxTick s =
      .next { s with rx := { s.rx with rxMiss := 4, rxCause := .frameTimeoutError, rxPhase := .done }
                     evQ := s.evQ ++ [⟨s.rx.rxTask, .recvError, []⟩] })
    ∧ (s.rx.rxPhase = .stop → s.rx.rxStopCnt + 1 ≠ s.cfg.codec.nstop → exec .rxTick s =
      .next { s with rx := { s.rx with rxStopCnt := s.rx.rxStopCnt + 1 } })
    ∧ (s.rx.rxPhase = .stop → s.rx.rxStopCnt + 1 = s.cfg.codec.nstop → s.rx.rxLen ≤ s.cfg.nmax → exec .rxTick s =
      .next { s with rx := { s.rx with rxStopCnt := s.rx.rxStopCnt + 1, rxPhase := .done }
                     evQ := s.evQ ++ [⟨s.rx.rxTask, .recvDone,
                       (List.range s.rx.rxLen).map fun i => Memory.read s.rx.rxBuf i⟩] })

/-- Taking an exception (R214): the cause and the phase are written, `RecvError` is posted to the receiver's task, and
nothing else changes; no front-end event has any effect after it. -/
def Obligations.AbortRecordsAndStops : Prop :=
  ∀ (cause : RxCause) (s : State),
    abort cause s = { s with rx := { s.rx with rxCause := cause, rxPhase := .done }
                             evQ := s.evQ ++ [⟨s.rx.rxTask, .recvError, []⟩] }
    ∧ ∀ e, execFrontEvent e (abort cause s) = .next (abort cause s)

/-- The list of exceptions is complete (R210): of the codec's operations, exactly those that meet X1 to X8 abort; the
cause is the kind's, `RecvError` is the last record posted, and no other operation posts it. -/
def Obligations.ExceptionsAreComplete : Prop :=
  ∀ (s t : State) (i : Instr), Instr.isCodecOp i = true → RxSane s.cfg s.rx → exec i s = .next t →
    ∃ new, t.evQ = s.evQ ++ new
      ∧ (RaisesTiming i s → t.rx.rxCause = .frameTimingError ∧ t.rx.rxPhase = .done
          ∧ new.getLast? = some ⟨s.rx.rxTask, .recvError, []⟩)
      ∧ (RaisesTimeout i s → t.rx.rxCause = .frameTimeoutError ∧ t.rx.rxPhase = .done
          ∧ new = [⟨s.rx.rxTask, .recvError, []⟩])
      ∧ (¬ RaisesTiming i s → ¬ RaisesTimeout i s →
          (t.rx.rxCause = s.rx.rxCause ∨ t.rx.rxCause = .none) ∧ ∀ e ∈ new, e.kind ≠ .recvError)

/-- `RecvEdge` is posted by the first edge of a receive operation and by nothing after it (R142, R160): a front-end
event of a receiver inside its invariants (in `Data` the flag is always set, R152) posts it exactly when it is an edge
that finds the receiver in `Sync` or `Data` with the flag clear, the flag is then set, and only `RECEIVE` and `RESET`
clear it. -/
def Obligations.EdgeAnnouncedOnce : Prop :=
  (∀ (s t : State) (e : FrontEvent), RxSane s.cfg s.rx → execFrontEvent e s = .next t →
    ∃ new, t.evQ = s.evQ ++ new
      ∧ ((∃ x ∈ new, x.kind = .recvEdge) ↔
          (s.rx.rxPhase = .sync ∨ s.rx.rxPhase = .data) ∧ s.rx.rxEdgeSeen = false ∧ e ≠ .tick)
      ∧ ((∃ x ∈ new, x.kind = .recvEdge) → t.rx.rxEdgeSeen = true))
  ∧ ∀ (s t : State) (i : Instr), exec i s = .next t → i ≠ .reset → (∀ len task, i ≠ .receive len task) →
      s.rx.rxEdgeSeen = true → t.rx.rxEdgeSeen = true

/-- Every operation but `RESET` only appends to the event queue (R36, R72 (i), R222). -/
def Obligations.QueueOnlyGrows : Prop :=
  ∀ (s t : State) (i : Instr), exec i s = .next t → i ≠ .reset → ∃ new, t.evQ = s.evQ ++ new

/-- A receive operation moves `Sync`, `Data`, `Stop`, `Done`, never backwards (R130): only `RECEIVE` begins anew. -/
def Obligations.ReceiverMovesForward : Prop :=
  ∀ (s t : State) (i : Instr), exec i s = .next t → (∀ len task, i ≠ .receive len task) →
    rxRank s.rx.rxPhase ≤ rxRank t.rx.rxPhase

/-- While the receiver is disabled every receive event is ignored (R27, R220), so a delivered frame stays in `rxBuf`
until the next `RECEIVE` (R72 (ii)). -/
def Obligations.DisabledReceiverIgnoresEvents : Prop :=
  ∀ (s t : State) (i : Instr), s.rx.rxPhase = .done → exec i s = .next t → i ≠ .reset →
    (∀ len task, i ≠ .receive len task) → t.rx = s.rx

/-- `TRANSMIT`, `TX_TICK` and the fade operations never change receive state (R152), and no codec operation changes
fade state (R190), nor a fade operation codec state (R224); so a codec and a fade operation, issued in either order,
lead to the same state. -/
def Obligations.CodecAndFadeCommute : Prop :=
  (∀ (s t : State) (i : Instr), exec i s = .next t →
    (Instr.isCodecOp i = true → t.fade = s.fade ∧ t.pushes = s.pushes)
    ∧ (Instr.isFadeOp i = true → t.tx = s.tx ∧ t.rx = s.rx ∧ t.evQ = s.evQ)
    ∧ (i = .txTick ∨ (∃ task d, i = .transmit task d) → t.rx = s.rx))
  ∧ ∀ (s a b : State) (i j : Instr), Instr.isCodecOp i = true → Instr.isFadeOp j = true →
      exec i s = .next a → exec j s = .next b → ∃ t, exec j a = .next t ∧ exec i b = .next t

/-- Round trip (R164): a receiver armed before the first edge that is given the front end's events of `Frame(d)`, with
every bounded run anywhere inside the window of its length, posts exactly `RecvEdge` and then `RecvDone` with payload
`d`. -/
def Obligations.RoundTrip : Prop :=
  ∀ (s : State) (p : CodecParams) (d : List Byte) (task gap : Nat) (durations : List Nat),
    paramsWellFormed p = true → s.cfg.codec = calibrate p → Memory.wf s.cfg.nmax s.rx.rxBuf = true →
    s.tx.txPhase = .done → 1 ≤ d.length → d.length ≤ s.cfg.nmax →
    RunsFit s.cfg.codec (runLengths (frame s.cfg.codec d)) durations →
    ∃ t, andThen (exec (.receive d.length task) s)
        (execFrontEvents (capture s.cfg.codec (pairUp durations).1 (pairUp durations).2 gap s.cfg.codec.nstop))
          = .next t
      ∧ t.evQ = s.evQ ++ [⟨task, .recvEdge, []⟩, ⟨task, .recvDone, d⟩]
      ∧ t.rx.rxCause = .none ∧ t.rx.rxPhase = .done

/-! ## The front end, the line symbols and the decode table -/

/-- The clocked front end of R90 is the reference function `Capture` of R91: over on and off runs of at least one clock
that do not saturate, it emits `Capture`'s events, the off duration of the first sample being what the duration counter
held at the first rising edge. The clock discipline is the model's reading (log entry 18). -/
def Obligations.FrontEndIsCapture : Prop :=
  ∀ (c : Config) (f : FrontEnd) (pairs : List (Nat × Nat)) (last trail : Nat),
    1 ≤ c.codec.halfNom → f.level = false → 1 ≤ last → last ≤ c.durMax →
    (∀ q ∈ pairs, 1 ≤ q.1 ∧ q.1 ≤ c.durMax ∧ 1 ≤ q.2 ∧ q.2 ≤ c.durMax) →
    (runFrontEnd c
        (pairs.flatMap (fun q => [(true, q.1), (false, q.2)])
          ++ [(true, last), (false, trail * c.codec.halfNom + 1)]) f).2
      = capture c.codec pairs last (min (f.run + 1) c.durMax) trail

/-- A line symbol is the front end's events for its half-bits (R81 to R83), `HALF_NOM` clocks each (R18), executed in
order. The meaning of these rows is the model's choice (log entry 5). -/
def Obligations.LineSymbolsAreTheirEvents : Prop :=
  ∀ (s : State) (i : Instr) (halves : List Bool),
    (i = .dataBit0 ∧ halves = [false, true]) ∨ (i = .dataBit1 ∧ halves = [true, false])
      ∨ (i = .syncPair ∧ halves = [true, false]) ∨ (i = .stopHalfbit ∧ halves = [false]) →
    exec i s =
      execFrontEvents (runFrontEnd s.cfg (halves.map fun l => (l, s.cfg.codec.halfNom)) s.frontEnd).2
        { s with frontEnd := (runFrontEnd s.cfg (halves.map fun l => (l, s.cfg.codec.halfNom)) s.frontEnd).1 }

/-- In a sane receiver every line symbol runs, and changes only receive state, the queue and the front end; with the
receiver disabled it changes the front end alone. The meaning of these rows is the model's choice (log entry 5). -/
def Obligations.LineSymbolsComplete : Prop :=
  ∀ (s : State) (i : Instr),
    i = .dataBit0 ∨ i = .dataBit1 ∨ i = .syncPair ∨ i = .stopHalfbit →
    s.cfg.codec.wf = true → RxSane s.cfg s.rx →
    ∃ t, exec i s = .next t ∧ t = { s with rx := t.rx, evQ := t.evQ, frontEnd := t.frontEnd }
      ∧ (s.rx.rxPhase = .done → t = { s with frontEnd := t.frontEnd })

/-- A decode-table entry is a sample that selects it: where the classes of a sample and the previous bit form its index
(R93), executing the entry and executing the sample are the same; outside the data phase, where no table is consulted
(R144), the classes alone decide. The meaning of these rows is the model's choice (log entry 6). -/
def Obligations.DecEntriesAreSamples : Prop :=
  ∀ (s : State) (off on : Nat) (prev : Bool) (k : BitVec 3) (i : Instr),
    decIndex prev (classify s.cfg.codec off) (classify s.cfg.codec on) = some k →
    decodeIndex k.toNat = .ok i → (prev = s.rx.rxPrev ∨ s.rx.rxPhase ≠ .data) →
    exec i s = exec (.rxSample off on) s

/-- The effect of each decode-table entry in the data phase, as the table's rows give it (R94, R144): entries 0 and 6
push 0, entry 4 pushes 1, entries 1 and 7 push 0 then 1 (or abort where the 0 completes the last byte), entries 2, 3 and
5 abort; and `rxPrev` is the last bit pushed. The meaning of these rows is the model's choice (log entry 6). -/
def Obligations.DecEntriesComplete : Prop :=
  ∀ (s : State) (i : Instr), s.rx.rxPhase = .data → s.rx.rxByte < s.cfg.nmax →
    (i = .dec0 ∨ i = .dec6 → ∃ t, exec i s = .next t ∧ t = { s with rx := t.rx }
      ∧ Packed s.cfg.nmax false { s.rx with rxMiss := 0 } t.rx ∧ t.rx.rxPrev = false)
    ∧ (i = .dec4 → ∃ t, exec i s = .next t ∧ t = { s with rx := t.rx }
      ∧ Packed s.cfg.nmax true { s.rx with rxMiss := 0 } t.rx ∧ t.rx.rxPrev = true)
    ∧ (i = .dec1 ∨ i = .dec7 → ∃ t mid, exec i s = .next t ∧ Packed s.cfg.nmax false { s.rx with rxMiss := 0 } mid
      ∧ (mid.rxPhase = .data →
          t = { s with rx := t.rx } ∧ Packed s.cfg.nmax true mid t.rx ∧ t.rx.rxPrev = true)
      ∧ (mid.rxPhase ≠ .data →
          t = { s with rx := { mid with rxPrev := s.rx.rxPrev, rxCause := .frameTimingError, rxPhase := .done }
                       evQ := s.evQ ++ [⟨s.rx.rxTask, .recvError, []⟩] }))
    ∧ (i = .dec2 ∨ i = .dec3 ∨ i = .dec5 → exec i s =
      .next { s with rx := { s.rx with rxMiss := 0, rxCause := .frameTimingError, rxPhase := .done }
                     evQ := s.evQ ++ [⟨s.rx.rxTask, .recvError, []⟩] })

/-- Duration classes (R92) with the windows of R9: both bounds of each window are inside it, and the windows do not
touch; a run inside a window is shorter than three half-bits (R156). R156 says the last under `TOL_PCT <= 33`; here it is
claimed of every set that meets the two conditions of R9, which is the model's reading (log entry 25). -/
def Obligations.ClassifyWindows : Prop :=
  ∀ (p : CodecParams) (d : Nat), paramsWellFormed p = true →
    let h := p.clockFreq / p.halfbitFreq
    (classify (calibrate p) d = .half ↔ h - h * p.tolPct / 100 ≤ d ∧ d ≤ h + h * p.tolPct / 100)
    ∧ (classify (calibrate p) d = .full ↔
        2 * h - 2 * h * p.tolPct / 100 ≤ d ∧ d ≤ 2 * h + 2 * h * p.tolPct / 100)
    ∧ (classify (calibrate p) d ≠ .invalid → 1 ≤ d ∧ d < 3 * h)

/-- The decode table (R94), entry by entry through its index (R93), and the codes of its actions. -/
def Obligations.DecodeTableEntries : Prop :=
  (decIndex false .half .half = some 0 ∧ decTable 0 = .emit0) ∧ (decIndex false .half .full = some 1 ∧ decTable 1 = .emit01)
  ∧ (decIndex false .full .half = some 2 ∧ decTable 2 = .error) ∧ (decIndex false .full .full = some 3 ∧ decTable 3 = .error)
  ∧ (decIndex true .half .half = some 4 ∧ decTable 4 = .emit1) ∧ (decIndex true .half .full = some 5 ∧ decTable 5 = .error)
  ∧ (decIndex true .full .half = some 6 ∧ decTable 6 = .emit0) ∧ (decIndex true .full .full = some 7 ∧ decTable 7 = .emit01)
  ∧ (∀ prev c, decIndex prev .invalid c = none ∧ decIndex prev c .invalid = none)
  ∧ decActionCode .emit0 = 0 ∧ decActionCode .emit1 = 1 ∧ decActionCode .emit01 = 2 ∧ decActionCode .error = 3

/-- The frame of R85 has `NSYNC + 16*n + NSTOP` half-bits, and no run of its sync and data part is longer than two
half-bits (R89 (i)). -/
def Obligations.FrameShape : Prop :=
  ∀ (c : CodecRegs) (d : List Byte), c.nsync % 2 = 0 →
    (frame c d).length = c.nsync + 16 * d.length + c.nstop
    ∧ ∀ run ∈ runLengths (syncLevels c.nsync ++ d.flatMap byteCells), run.2 ≤ 2

/-! ## The fade engine -/

/-- `FADE_SETUP` without a request does nothing at all (R174, R184), whether or not the host has loaded its parameters;
with a request it is refused until every one of them is loaded (R244, U2). Which registers have to be loaded, and the
form of the refusal, are the model's reading (log entry 13). -/
def Obligations.SetupWithoutRequest : Prop :=
  ∀ s : State,
    (s.fade.outputChangeRequested = false → exec .fadeSetup s = .next s)
    ∧ (s.fade.outputChangeRequested = true →
        s.loaded.minLevel = false ∨ s.loaded.maxLevel = false ∨ s.loaded.fadeTime = false ∨ s.loaded.fadeRate = false
          ∨ s.loaded.fastFadeTime = false ∨ s.loaded.curveSel = false →
        exec .fadeSetup s = .refused .parametersNotLoaded)

/-- `FADE_SETUP` over a distance of 0 or 1, or with a period of 0 (R180): the clamped level (R172) is taken at once and
any ramp is cancelled. The host has loaded its parameters, as R244 (2) asks (U2). -/
def Obligations.SetupAtOnce : Prop :=
  ∀ s : State, s.fade.outputChangeRequested = true → s.loaded = ⟨true, true, true, true, true, true⟩ →
    let f := s.fade
    let r : Level := if f.requestedLevel = 0 then 0 else if f.requestedLevel < f.minLevel then f.minLevel
      else if f.requestedLevel > f.maxLevel then f.maxLevel else f.requestedLevel
    dist f.minLevel f.actualLevel r ≤ 1 ∨ setupPeriod s.cfg.fade f = 0 →
    exec .fadeSetup s = .next { s with fade := { f with
      limitError := decide (f.requestedLevel ≠ 0 ∧ (f.requestedLevel < f.minLevel ∨ f.requestedLevel > f.maxLevel))
      requestedLevel := r, actualLevel := r
      fadeRunning := false, fadePeriod := 0, fadeIncrement := 0, fadeCounter := 0
      fadeRateRequested := false, outputChangeRequested := false } }

/-- `FADE_SETUP` over a longer distance starts a ramp (R174, R176, R178, R182): mode, direction, period and increment as
the rules give them, the counter at 0, the request flags cleared and the level not moved. The host has loaded its
parameters, as R244 (2) asks (U2). -/
def Obligations.SetupStartsRamp : Prop :=
  ∀ s : State, s.fade.outputChangeRequested = true → s.loaded = ⟨true, true, true, true, true, true⟩ →
    let f := s.fade
    let p := s.cfg.fade
    let r : Level := if f.requestedLevel = 0 then 0 else if f.requestedLevel < f.minLevel then f.minLevel
      else if f.requestedLevel > f.maxLevel then f.maxLevel else f.requestedLevel
    let d := dist f.minLevel f.actualLevel r
    let period : Micros := if f.fadeRateRequested then p.rateWindowUs
      else if f.fadeTime ≠ 0 then p.fadeTimeUs[f.fadeTime.toNat]
      else f.fastFadeTime.zeroExtend 32 * p.fastFadeUnitUs
    2 ≤ d → period ≠ 0 →
    exec .fadeSetup s = .next { s with fade := { f with
      limitError := decide (f.requestedLevel ≠ 0 ∧ (f.requestedLevel < f.minLevel ∨ f.requestedLevel > f.maxLevel))
      requestedLevel := r
      fadeMode := if f.fadeRateRequested then .rate else .time
      fadeDirection := if r > f.actualLevel then .up else .down
      fadePeriod := period
      fadeIncrement := if f.fadeRateRequested then p.rateStepUs[f.fadeRate.toNat]
        else BitVec.ofNat 32 (period.toNat / d)
      fadeCounter := 0, fadeRunning := true
      fadeRateRequested := false, outputChangeRequested := false } }

/-- `Dist(a, r)` is the number of steps from `a` to `r` (R171), for a target that the limits allow and a lower limit
above 0: that many lead there, and no fewer. -/
def Obligations.DistCountsSteps : Prop :=
  ∀ (m a r : Level), m ≠ 0 → (r = 0 ∨ m ≤ r) →
    let dir : Direction := if r > a then .up else .down
    stepLevels dir m (dist m a r) a = r ∧ ∀ n, n < dist m a r → stepLevels dir m n a ≠ r

/-- `FADE_TICK` with no ramp (R186, R192, R194): the outputs and the lamp bits are written, one push record is emitted,
and nothing else changes. -/
def Obligations.TickWithoutRamp : Prop :=
  ∀ (s : State) (ledOk : Bool), s.fade.fadeRunning = false →
    let f := s.fade
    let out : Nat := match f.curveSel with
      | .logarithmic => s.cfg.fade.logCurve[f.actualLevel.toNat]
      | .linear => f.actualLevel.toNat
    let on : Bool := decide (f.actualLevel ≠ 0) && ledOk
    exec (.fadeTick ledOk) s = .next { s with
      fade := { f with outCurve := f.curveSel, outLevel := out, lampOn := on, lampFailure := !ledOk }
      pushes := s.pushes ++ [⟨f.curveSel, out, on, !ledOk⟩] }

/-- `FADE_TICK` in a ramp (R186, R188, R192, R194), where the counter does not overflow: the level takes as many steps as
the accumulated time holds increments, but none past the target; what is left is carried; the ramp ends on arrival
(fade-time mode) or when the period is used up (fade-rate mode), and the outputs are driven from the new level. With a
lower limit of 0, outside R13, a step from 0 moves nothing; with an increment of 0 as well the level runs straight to the
target (R188, U6; that it does so is the model's reading, log entry 16). -/
def Obligations.TickInRamp : Prop :=
  ∀ (s : State) (ledOk : Bool), s.fade.fadeRunning = true →
    s.fade.fadeCounter.toNat + s.cfg.fade.tickUs.toNat < 2 ^ 32 →
    let f := s.fade
    let total := f.fadeCounter.toNat + s.cfg.fade.tickUs.toNat
    ∃ (n : Nat) (t : State), exec (.fadeTick ledOk) s = .next t
      ∧ n * f.fadeIncrement.toNat ≤ total
      ∧ (f.minLevel ≠ 0 ∨ f.fadeIncrement ≠ 0 →
          t.fade.actualLevel = stepLevels f.fadeDirection f.minLevel n f.actualLevel
          ∧ ∀ j, j < n →
              Before f.fadeDirection f.requestedLevel (stepLevels f.fadeDirection f.minLevel j f.actualLevel))
      ∧ (f.minLevel = 0 → f.fadeIncrement = 0 →
          (Before f.fadeDirection f.requestedLevel f.actualLevel → t.fade.actualLevel = f.requestedLevel)
          ∧ (¬ Before f.fadeDirection f.requestedLevel f.actualLevel → t.fade.actualLevel = f.actualLevel))
      ∧ (total - n * f.fadeIncrement.toNat < f.fadeIncrement.toNat
          ∨ ¬ Before f.fadeDirection f.requestedLevel t.fade.actualLevel)
      ∧ t = { s with
          fade := { f with
            actualLevel := t.fade.actualLevel, fadeRunning := t.fade.fadeRunning, fadePeriod := t.fade.fadePeriod
            fadeIncrement := t.fade.fadeIncrement, fadeCounter := t.fade.fadeCounter
            outCurve := f.curveSel, outLevel := t.fade.outLevel
            lampOn := decide (t.fade.actualLevel ≠ 0) && ledOk, lampFailure := !ledOk }
          pushes := s.pushes ++ [⟨f.curveSel, t.fade.outLevel, t.fade.lampOn, !ledOk⟩] }
      ∧ (f.curveSel = .logarithmic → t.fade.outLevel = s.cfg.fade.logCurve[t.fade.actualLevel.toNat])
      ∧ (f.curveSel = .linear → t.fade.outLevel = t.fade.actualLevel.toNat)
      ∧ (t.fade.fadeRunning = false ↔
          (f.fadeMode = .time ∧ ¬ Before f.fadeDirection f.requestedLevel t.fade.actualLevel)
          ∨ (f.fadeMode = .rate ∧ f.fadePeriod ≤ s.cfg.fade.tickUs))
      ∧ (t.fade.fadeRunning = false →
          t.fade.fadePeriod = 0 ∧ t.fade.fadeIncrement = 0 ∧ t.fade.fadeCounter = 0)
      ∧ (t.fade.fadeRunning = true → t.fade.fadeIncrement = f.fadeIncrement
          ∧ t.fade.fadeCounter.toNat = total - n * f.fadeIncrement.toNat
          ∧ t.fade.fadePeriod = (if f.fadeMode = .rate then f.fadePeriod - s.cfg.fade.tickUs else f.fadePeriod))

/-- A fade-time ramp ends on tick number `ceil(d * fadeIncrement / TICK_US)`, tick 1 if the increment is 0, never later
than `ceil(p / TICK_US)`, with the level at its target and the ramp registers cleared; it runs until then (R196). -/
def Obligations.FadeTimeRampCompletes : Prop :=
  ∀ (s u : State) (lamps : List Bool), s.cfg.wf = true → s.fade.minLevel ≠ 0 → s.fade.minLevel ≤ s.fade.maxLevel →
    s.fade.outputChangeRequested = true → exec .fadeSetup s = .next u →
    u.fade.fadeRunning = true → u.fade.fadeMode = .time →
    let tick := s.cfg.fade.tickUs.toNat
    let d := dist s.fade.minLevel s.fade.actualLevel u.fade.requestedLevel
    let inc := u.fade.fadeIncrement.toNat
    let n := if inc = 0 then 1 else (d * inc + tick - 1) / tick
    n ≤ (u.fade.fadePeriod.toNat + tick - 1) / tick
    ∧ (lamps.length < n → ∃ t, fadeTicks lamps u = .next t ∧ t.fade.fadeRunning = true)
    ∧ (lamps.length = n → ∃ t, fadeTicks lamps u = .next t ∧ t.fade.actualLevel = u.fade.requestedLevel
        ∧ t.fade.requestedLevel = u.fade.requestedLevel ∧ t.fade.fadeRunning = false ∧ t.fade.fadePeriod = 0
        ∧ t.fade.fadeIncrement = 0 ∧ t.fade.fadeCounter = 0)

/-- A fade-rate ramp ends on tick number `ceil(RATE_WINDOW_US / TICK_US)` and runs until then; the level has then moved
`min(d, floor(T / fadeIncrement))` steps, `T` being `TICK_US` times that tick number, and the request stands (R196). -/
def Obligations.FadeRateRampCompletes : Prop :=
  ∀ (s u : State) (lamps : List Bool), s.cfg.wf = true → s.fade.minLevel ≠ 0 → s.fade.minLevel ≤ s.fade.maxLevel →
    s.fade.outputChangeRequested = true → exec .fadeSetup s = .next u →
    u.fade.fadeRunning = true → u.fade.fadeMode = .rate →
    let tick := s.cfg.fade.tickUs.toNat
    let d := dist s.fade.minLevel s.fade.actualLevel u.fade.requestedLevel
    let inc := u.fade.fadeIncrement.toNat
    let n := (s.cfg.fade.rateWindowUs.toNat + tick - 1) / tick
    (lamps.length < n → ∃ t, fadeTicks lamps u = .next t ∧ t.fade.fadeRunning = true)
    ∧ (lamps.length = n → ∃ t, fadeTicks lamps u = .next t
        ∧ t.fade.actualLevel =
            stepLevels u.fade.fadeDirection s.fade.minLevel (min d (n * tick / inc)) s.fade.actualLevel
        ∧ t.fade.requestedLevel = u.fade.requestedLevel ∧ t.fade.fadeRunning = false ∧ t.fade.fadePeriod = 0
        ∧ t.fade.fadeIncrement = 0 ∧ t.fade.fadeCounter = 0)

/-- No operation moves the light from an allowed level to one strictly between 0 and `minLevel` or above `maxLevel`,
provided the limits are in order and the target of a running ramp has been clamped (R49 (i), R195). -/
def Obligations.LevelNeverForbidden : Prop :=
  ∀ (s t : State) (i : Instr), s.fade.minLevel ≠ 0 → s.fade.minLevel ≤ s.fade.maxLevel →
    (s.fade.fadeRunning = true → TargetClamped s.fade) → exec i s = .next t →
    ¬ LevelForbidden s.fade s.fade.actualLevel → ¬ LevelForbidden t.fade t.fade.actualLevel

/-! ## Stops -/

/-- Where the machine stops with a fault: an operation that reaches a buffer at an index it does not have (R60, R67).
The fault is the model's (log entry 10); no sane state reaches it. -/
def Obligations.FaultsByName : Prop :=
  ∀ s : State,
    (s.tx.txPhase = .dataFirstHalf ∨ s.tx.txPhase = .dataSecondHalf → s.cfg.nmax ≤ s.tx.txByte →
      exec .txTick s = .fault (.noSuchIndex s.tx.txByte))
    ∧ (s.rx.rxPhase = .stop → s.rx.rxStopCnt + 1 = s.cfg.codec.nstop → s.cfg.nmax < s.rx.rxLen →
      exec .rxTick s = .fault (.noSuchIndex s.cfg.nmax))
    ∧ (∀ off on, s.rx.rxPhase = .data → s.rx.rxBitCnt = 7 → s.cfg.nmax ≤ s.rx.rxByte →
      ¬ EmitsNone s.rx.rxPrev (classify s.cfg.codec off) (classify s.cfg.codec on) →
      exec (.rxSample off on) s = .fault (.noSuchIndex s.rx.rxByte))
end

