-- ==== Sys2Proof/Laws/Buffers.lean ====
section
/-! SUPPORT. The byte buffers: reading after writing, and the canonical form that every write keeps (R60, R61, R68). -/

namespace Sys2Proof.Machine

@[simp] theorem Memory.read_nil (i : Nat) : Memory.read [] i = 0 := rfl

theorem Memory.read_cell (a : Nat) (b : Byte) (m : Memory) (i : Nat) :
    Memory.read ((a, b) :: m) i = if a = i then b else Memory.read m i := rfl

/-- A canonical buffer whose cells start at `lo` lists nothing below `lo`. -/
theorem Memory.read_of_wfFrom {n : Nat} :
    ∀ {m : Memory} {lo i : Nat}, Memory.wfFrom n lo m = true → i < lo → Memory.read m i = 0
  | [], _, _, _, _ => rfl
  | (a, b) :: m, lo, i, h, hi => by
    simp only [Memory.wfFrom, Bool.and_eq_true, decide_eq_true_eq] at h
    rw [Memory.read_cell, if_neg (by omega)]
    exact Memory.read_of_wfFrom h.2 (by omega)

theorem Memory.wfFrom_mono {n : Nat} {m : Memory} {lo lo' : Nat} (h : Memory.wfFrom n lo m = true) (hl : lo' ≤ lo) :
    Memory.wfFrom n lo' m = true := by
  cases m with
  | nil => rfl
  | cons c m =>
    simp only [Memory.wfFrom, Bool.and_eq_true, decide_eq_true_eq] at h ⊢
    exact ⟨⟨by omega, h.1.2⟩, h.2⟩

theorem Memory.wfFrom_cons {n lo i : Nat} {v : Byte} {m : Memory} (hm : Memory.wfFrom n (i + 1) m = true) (hl : lo ≤ i)
    (hi : i < n) : Memory.wfFrom n lo (Memory.cons i v m) = true := by
  unfold Memory.cons
  split
  · exact Memory.wfFrom_mono hm (by omega)
  · rename_i hv
    simp only [Memory.wfFrom, Bool.and_eq_true, decide_eq_true_eq]
    exact ⟨⟨hl, hi, hv⟩, hm⟩

/-- Every write inside the buffer keeps the canonical form. -/
theorem Memory.wfFrom_write {n i : Nat} {v : Byte} (hi : i < n) :
    ∀ {m : Memory} {lo : Nat}, Memory.wfFrom n lo m = true → lo ≤ i →
      Memory.wfFrom n lo (Memory.write m i v) = true
  | [], _, _, hl => Memory.wfFrom_cons rfl hl hi
  | (a, b) :: m, lo, h, hl => by
    have h' := h
    simp only [Memory.wfFrom, Bool.and_eq_true, decide_eq_true_eq] at h'
    unfold Memory.write
    split
    · rename_i hia
      refine Memory.wfFrom_cons ?_ hl hi
      simp only [Memory.wfFrom, Bool.and_eq_true, decide_eq_true_eq]
      exact ⟨⟨by omega, h'.1.2⟩, h'.2⟩
    · split
      · rename_i hia
        exact Memory.wfFrom_cons (hia ▸ h'.2) hl hi
      · simp only [Memory.wfFrom, Bool.and_eq_true, decide_eq_true_eq]
        exact ⟨h'.1, Memory.wfFrom_write hi h'.2 (by omega)⟩

theorem Memory.wf_write {n i : Nat} {v : Byte} {m : Memory} (hi : i < n) (h : Memory.wf n m = true) :
    Memory.wf n (Memory.write m i v) = true := Memory.wfFrom_write hi h (Nat.zero_le i)

@[simp] theorem Memory.wf_nil (n : Nat) : Memory.wf n [] = true := rfl

/-- Every run of writes inside the buffer keeps the canonical form. -/
theorem Memory.wf_writeBytes {n : Nat} : ∀ {d : List Byte} {m : Memory} {i : Nat}, i + d.length ≤ n →
    Memory.wf n m = true → Memory.wf n (Memory.writeBytes m i d) = true
  | [], _, _, _, h => h
  | b :: d, m, i, hi, h => by
    simp only [List.length_cons] at hi
    exact Memory.wf_writeBytes (d := d) (by omega) (Memory.wf_write (by omega) h)

/-- Filling a buffer gives a canonical one. -/
theorem Memory.wf_fill (n : Nat) (f : Nat → Byte) : Memory.wf n (Memory.fill n f) = true :=
  Memory.wf_writeBytes (by simp) rfl

theorem Memory.read_cons_same {i : Nat} {v : Byte} {m : Memory} (h : Memory.read m i = 0) :
    Memory.read (Memory.cons i v m) i = v := by
  unfold Memory.cons
  split
  · rename_i hv
    rw [h, hv]
  · simp [Memory.read_cell]

theorem Memory.read_cons_other {i j : Nat} {v : Byte} {m : Memory} (h : i ≠ j) :
    Memory.read (Memory.cons i v m) j = Memory.read m j := by
  unfold Memory.cons
  split
  · rfl
  · simp [Memory.read_cell, h]

/-- A canonical buffer reads back what was written (R15, R71). -/
theorem Memory.read_write_same_from {n i : Nat} {v : Byte} :
    ∀ {m : Memory} {lo : Nat}, Memory.wfFrom n lo m = true → Memory.read (Memory.write m i v) i = v
  | [], _, _ => Memory.read_cons_same rfl
  | (a, b) :: m, lo, h => by
    have h' := h
    simp only [Memory.wfFrom, Bool.and_eq_true, decide_eq_true_eq] at h'
    unfold Memory.write
    split
    · rename_i hia
      refine Memory.read_cons_same ?_
      rw [Memory.read_cell, if_neg (by omega)]
      exact Memory.read_of_wfFrom h'.2 (by omega)
    · split
      · rename_i hia
        exact Memory.read_cons_same (Memory.read_of_wfFrom h'.2 (by omega))
      · rename_i hne
        rw [Memory.read_cell, if_neg (fun e => hne e.symm)]
        exact Memory.read_write_same_from h'.2

theorem Memory.read_write_same {n i : Nat} {v : Byte} {m : Memory} (h : Memory.wf n m = true) :
    Memory.read (Memory.write m i v) i = v := Memory.read_write_same_from h

/-- A write leaves every other index of any buffer alone (R71). -/
theorem Memory.read_write_other {i j : Nat} {v : Byte} (hij : i ≠ j) :
    ∀ (m : Memory), Memory.read (Memory.write m i v) j = Memory.read m j
  | [] => Memory.read_cons_other hij
  | (a, b) :: m => by
    unfold Memory.write
    split
    · exact Memory.read_cons_other hij
    · split
      · rename_i hia
        rw [Memory.read_cons_other hij, Memory.read_cell, if_neg (by omega)]
      · simp only [Memory.read_cell, Memory.read_write_other hij m]

/-- A run of writes leaves every index outside it alone. -/
theorem Memory.read_writeBytes_outside {j : Nat} : ∀ {d : List Byte} {m : Memory} {i : Nat},
    (j < i ∨ i + d.length ≤ j) → Memory.read (Memory.writeBytes m i d) j = Memory.read m j
  | [], _, _, _ => rfl
  | b :: d, m, i, h => by
    simp only [List.length_cons] at h
    rw [Memory.writeBytes, Memory.read_writeBytes_outside (by omega), Memory.read_write_other (by omega)]

/-- A run of writes into a canonical buffer reads back (R72 (iii), R112). -/
theorem Memory.read_writeBytes_inside {n : Nat} : ∀ {d : List Byte} {m : Memory} {i k : Nat} (hk : k < d.length),
    i + d.length ≤ n → Memory.wf n m = true → Memory.read (Memory.writeBytes m i d) (i + k) = d[k]
  | b :: d, m, i, 0, _, hn, h => by
    rw [Memory.writeBytes, Memory.read_writeBytes_outside (by omega)]
    exact Memory.read_write_same h
  | b :: d, m, i, k + 1, hk, hn, h => by
    simp only [List.length_cons] at hk hn
    have hi : i + (k + 1) = i + 1 + k := by omega
    rw [Memory.writeBytes, hi]
    exact Memory.read_writeBytes_inside (by omega) (by omega) (Memory.wf_write (by omega) h)

@[simp] theorem Memory.bytes_length (m : Memory) (n : Nat) : (Memory.bytes m n).length = n := by
  simp [Memory.bytes]

/-- Two canonical buffers that read alike are the same data. -/
theorem Memory.ext_of_wfFrom {n : Nat} : ∀ {m m' : Memory} {lo : Nat}, Memory.wfFrom n lo m = true →
    Memory.wfFrom n lo m' = true → (∀ i, Memory.read m i = Memory.read m' i) → m = m'
  | [], [], _, _, _, _ => rfl
  | [], (a, b) :: m, _, _, h, he => by
    simp only [Memory.wfFrom, Bool.and_eq_true, decide_eq_true_eq] at h
    have := he a
    simp only [Memory.read_nil, Memory.read_cell, if_true] at this
    exact absurd this.symm h.1.2.2
  | (a, b) :: m, [], _, h, _, he => by
    simp only [Memory.wfFrom, Bool.and_eq_true, decide_eq_true_eq] at h
    have := he a
    simp only [Memory.read_nil, Memory.read_cell, if_true] at this
    exact absurd this h.1.2.2
  | (a, b) :: m, (a', b') :: m', lo, h, h', he => by
    simp only [Memory.wfFrom, Bool.and_eq_true, decide_eq_true_eq] at h h'
    have hab : a = a' := by
      rcases Nat.lt_trichotomy a a' with hl | hl | hl
      · have := he a
        rw [Memory.read_cell, Memory.read_cell, if_pos rfl, if_neg (by omega),
          Memory.read_of_wfFrom h'.2 (by omega)] at this
        exact absurd this h.1.2.2
      · exact hl
      · have := he a'
        rw [Memory.read_cell, Memory.read_cell, if_pos rfl, if_neg (by omega),
          Memory.read_of_wfFrom h.2 (by omega)] at this
        exact absurd this.symm h'.1.2.2
    subst hab
    have hb : b = b' := by simpa [Memory.read_cell] using he a
    subst hb
    have ht : m = m' := by
      refine Memory.ext_of_wfFrom h.2 h'.2 fun i => ?_
      by_cases hi : a = i
      · subst hi
        rw [Memory.read_of_wfFrom h.2 (by omega), Memory.read_of_wfFrom h'.2 (by omega)]
      · simpa [Memory.read_cell, hi] using he i
    rw [ht]

/-- Equal memories are equal data: canonical buffers that read alike at every index are the same list. -/
theorem Memory.ext_of_wf {n : Nat} {m m' : Memory} (h : Memory.wf n m = true) (h' : Memory.wf n m' = true)
    (he : ∀ i, Memory.read m i = Memory.read m' i) : m = m' := Memory.ext_of_wfFrom h h' he

end Sys2Proof.Machine
end

