-- ==== Sys2Proof/Laws/State.lean ====
section
/-! SUPPORT. One lemma per field per named update of the state: what each shared operation writes and what it leaves. -/

namespace Sys2Proof.Machine

/-! `post` writes the queue alone (R36). -/

@[simp] theorem post_cfg (k : Nat) (e : EventKind) (p : List Byte) (s : State) : (post k e p s).cfg = s.cfg := rfl
@[simp] theorem post_tx (k : Nat) (e : EventKind) (p : List Byte) (s : State) : (post k e p s).tx = s.tx := rfl
@[simp] theorem post_rx (k : Nat) (e : EventKind) (p : List Byte) (s : State) : (post k e p s).rx = s.rx := rfl
@[simp] theorem post_evQ (k : Nat) (e : EventKind) (p : List Byte) (s : State)
    : (post k e p s).evQ = s.evQ ++ [⟨k, e, p⟩] := rfl
@[simp] theorem post_fade (k : Nat) (e : EventKind) (p : List Byte) (s : State) : (post k e p s).fade = s.fade := rfl
@[simp] theorem post_loaded (k : Nat) (e : EventKind) (p : List Byte) (s : State)
    : (post k e p s).loaded = s.loaded := rfl
@[simp] theorem post_pushes (k : Nat) (e : EventKind) (p : List Byte) (s : State)
    : (post k e p s).pushes = s.pushes := rfl
@[simp] theorem post_frontEnd (k : Nat) (e : EventKind) (p : List Byte) (s : State)
    : (post k e p s).frontEnd = s.frontEnd := rfl
@[simp] theorem post_inputs (k : Nat) (e : EventKind) (p : List Byte) (s : State)
    : (post k e p s).inputs = s.inputs := rfl
@[simp] theorem post_freeCount (k : Nat) (e : EventKind) (p : List Byte) (s : State)
    : (post k e p s).freeCount = s.freeCount := rfl

/-! `abort` writes the cause, the phase and the queue alone (R214). -/

@[simp] theorem abort_cfg (c : RxCause) (s : State) : (abort c s).cfg = s.cfg := rfl
@[simp] theorem abort_tx (c : RxCause) (s : State) : (abort c s).tx = s.tx := rfl
@[simp] theorem abort_rx (c : RxCause) (s : State)
    : (abort c s).rx = { s.rx with rxCause := c, rxPhase := .done } := rfl
@[simp] theorem abort_evQ (c : RxCause) (s : State)
    : (abort c s).evQ = s.evQ ++ [⟨s.rx.rxTask, .recvError, []⟩] := rfl
@[simp] theorem abort_fade (c : RxCause) (s : State) : (abort c s).fade = s.fade := rfl
@[simp] theorem abort_loaded (c : RxCause) (s : State) : (abort c s).loaded = s.loaded := rfl
@[simp] theorem abort_pushes (c : RxCause) (s : State) : (abort c s).pushes = s.pushes := rfl
@[simp] theorem abort_frontEnd (c : RxCause) (s : State) : (abort c s).frontEnd = s.frontEnd := rfl
@[simp] theorem abort_inputs (c : RxCause) (s : State) : (abort c s).inputs = s.inputs := rfl
@[simp] theorem abort_freeCount (c : RxCause) (s : State) : (abort c s).freeCount = s.freeCount := rfl

/-! `clearMiss` writes the timeout counter alone (R156). -/

@[simp] theorem clearMiss_cfg (s : State) : (clearMiss s).cfg = s.cfg := rfl
@[simp] theorem clearMiss_tx (s : State) : (clearMiss s).tx = s.tx := rfl
@[simp] theorem clearMiss_rx (s : State) : (clearMiss s).rx = { s.rx with rxMiss := 0 } := rfl
@[simp] theorem clearMiss_evQ (s : State) : (clearMiss s).evQ = s.evQ := rfl
@[simp] theorem clearMiss_fade (s : State) : (clearMiss s).fade = s.fade := rfl
@[simp] theorem clearMiss_loaded (s : State) : (clearMiss s).loaded = s.loaded := rfl
@[simp] theorem clearMiss_pushes (s : State) : (clearMiss s).pushes = s.pushes := rfl
@[simp] theorem clearMiss_frontEnd (s : State) : (clearMiss s).frontEnd = s.frontEnd := rfl
@[simp] theorem clearMiss_inputs (s : State) : (clearMiss s).inputs = s.inputs := rfl
@[simp] theorem clearMiss_freeCount (s : State) : (clearMiss s).freeCount = s.freeCount := rfl

/-! `setPrev` writes the previous bit alone (R144). -/

@[simp] theorem setPrev_cfg (b : Bool) (s : State) : (setPrev b s).cfg = s.cfg := rfl
@[simp] theorem setPrev_tx (b : Bool) (s : State) : (setPrev b s).tx = s.tx := rfl
@[simp] theorem setPrev_rx (b : Bool) (s : State) : (setPrev b s).rx = { s.rx with rxPrev := b } := rfl
@[simp] theorem setPrev_evQ (b : Bool) (s : State) : (setPrev b s).evQ = s.evQ := rfl
@[simp] theorem setPrev_fade (b : Bool) (s : State) : (setPrev b s).fade = s.fade := rfl
@[simp] theorem setPrev_loaded (b : Bool) (s : State) : (setPrev b s).loaded = s.loaded := rfl
@[simp] theorem setPrev_pushes (b : Bool) (s : State) : (setPrev b s).pushes = s.pushes := rfl
@[simp] theorem setPrev_frontEnd (b : Bool) (s : State) : (setPrev b s).frontEnd = s.frontEnd := rfl
@[simp] theorem setPrev_inputs (b : Bool) (s : State) : (setPrev b s).inputs = s.inputs := rfl
@[simp] theorem setPrev_freeCount (b : Bool) (s : State) : (setPrev b s).freeCount = s.freeCount := rfl

/-! `noteEdge` writes the edge flag and the queue alone (R160). -/

@[simp] theorem noteEdge_cfg (s : State) : (noteEdge s).cfg = s.cfg := by
  unfold noteEdge; split <;> simp_all
@[simp] theorem noteEdge_tx (s : State) : (noteEdge s).tx = s.tx := by
  unfold noteEdge; split <;> simp_all
@[simp] theorem noteEdge_rx (s : State) : (noteEdge s).rx = { s.rx with rxEdgeSeen := true } := by
  unfold noteEdge
  split
  · rename_i h
    rw [← h]
  · rfl
@[simp] theorem noteEdge_evQ (s : State) : (noteEdge s).evQ = s.evQ ++ (if s.rx.rxEdgeSeen then [] else [⟨s.rx.rxTask, .recvEdge, []⟩]) := by
  unfold noteEdge; split <;> simp_all
@[simp] theorem noteEdge_fade (s : State) : (noteEdge s).fade = s.fade := by
  unfold noteEdge; split <;> simp_all
@[simp] theorem noteEdge_loaded (s : State) : (noteEdge s).loaded = s.loaded := by
  unfold noteEdge; split <;> simp_all
@[simp] theorem noteEdge_pushes (s : State) : (noteEdge s).pushes = s.pushes := by
  unfold noteEdge; split <;> simp_all
@[simp] theorem noteEdge_frontEnd (s : State) : (noteEdge s).frontEnd = s.frontEnd := by
  unfold noteEdge; split <;> simp_all
@[simp] theorem noteEdge_inputs (s : State) : (noteEdge s).inputs = s.inputs := by
  unfold noteEdge; split <;> simp_all
@[simp] theorem noteEdge_freeCount (s : State) : (noteEdge s).freeCount = s.freeCount := by
  unfold noteEdge; split <;> simp_all

/-! `rearm` initialises every receive register but the buffer (R134). -/

@[simp] theorem rearm_rxPhase (n k : Nat) (r : Rx) : (rearm n k r).rxPhase = .sync := rfl
@[simp] theorem rearm_rxBuf (n k : Nat) (r : Rx) : (rearm n k r).rxBuf = r.rxBuf := rfl
@[simp] theorem rearm_rxLen (n k : Nat) (r : Rx) : (rearm n k r).rxLen = n := rfl
@[simp] theorem rearm_rxRemain (n k : Nat) (r : Rx) : (rearm n k r).rxRemain = n := rfl
@[simp] theorem rearm_rxByte (n k : Nat) (r : Rx) : (rearm n k r).rxByte = 0 := rfl
@[simp] theorem rearm_rxShift (n k : Nat) (r : Rx) : (rearm n k r).rxShift = 0 := rfl
@[simp] theorem rearm_rxBitCnt (n k : Nat) (r : Rx) : (rearm n k r).rxBitCnt = 0 := rfl
@[simp] theorem rearm_rxPrev (n k : Nat) (r : Rx) : (rearm n k r).rxPrev = true := rfl
@[simp] theorem rearm_rxSyncCnt (n k : Nat) (r : Rx) : (rearm n k r).rxSyncCnt = 0 := rfl
@[simp] theorem rearm_rxStopCnt (n k : Nat) (r : Rx) : (rearm n k r).rxStopCnt = 0 := rfl
@[simp] theorem rearm_rxMiss (n k : Nat) (r : Rx) : (rearm n k r).rxMiss = 0 := rfl
@[simp] theorem rearm_rxEdgeSeen (n k : Nat) (r : Rx) : (rearm n k r).rxEdgeSeen = false := rfl
@[simp] theorem rearm_rxTask (n k : Nat) (r : Rx) : (rearm n k r).rxTask = k := rfl
@[simp] theorem rearm_rxCause (n k : Nat) (r : Rx) : (rearm n k r).rxCause = .none := rfl

/-! `armTransmit` writes every transmit register but the line (R112). -/

@[simp] theorem armTransmit_txPhase (k : Nat) (d : List Byte) (t : Tx)
    : (armTransmit k d t).txPhase = .syncFirstHalf := rfl
@[simp] theorem armTransmit_txBuf (k : Nat) (d : List Byte) (t : Tx)
    : (armTransmit k d t).txBuf = Memory.writeBytes t.txBuf 0 d := rfl
@[simp] theorem armTransmit_txLen (k : Nat) (d : List Byte) (t : Tx) : (armTransmit k d t).txLen = d.length := rfl
@[simp] theorem armTransmit_txByte (k : Nat) (d : List Byte) (t : Tx) : (armTransmit k d t).txByte = 0 := rfl
@[simp] theorem armTransmit_txBit (k : Nat) (d : List Byte) (t : Tx) : (armTransmit k d t).txBit = 7 := rfl
@[simp] theorem armTransmit_txCnt (k : Nat) (d : List Byte) (t : Tx) : (armTransmit k d t).txCnt = 0 := rfl
@[simp] theorem armTransmit_txLine (k : Nat) (d : List Byte) (t : Tx) : (armTransmit k d t).txLine = t.txLine := rfl
@[simp] theorem armTransmit_txTask (k : Nat) (d : List Byte) (t : Tx) : (armTransmit k d t).txTask = k := rfl

/-! `clearRamp` writes the four ramp registers alone (R180, R186). -/

@[simp] theorem clearRamp_requestedLevel (f : Fade) : (clearRamp f).requestedLevel = f.requestedLevel := rfl
@[simp] theorem clearRamp_actualLevel (f : Fade) : (clearRamp f).actualLevel = f.actualLevel := rfl
@[simp] theorem clearRamp_minLevel (f : Fade) : (clearRamp f).minLevel = f.minLevel := rfl
@[simp] theorem clearRamp_maxLevel (f : Fade) : (clearRamp f).maxLevel = f.maxLevel := rfl
@[simp] theorem clearRamp_physicalMinLevel (f : Fade) : (clearRamp f).physicalMinLevel = f.physicalMinLevel := rfl
@[simp] theorem clearRamp_fadeTime (f : Fade) : (clearRamp f).fadeTime = f.fadeTime := rfl
@[simp] theorem clearRamp_fadeRate (f : Fade) : (clearRamp f).fadeRate = f.fadeRate := rfl
@[simp] theorem clearRamp_fastFadeTime (f : Fade) : (clearRamp f).fastFadeTime = f.fastFadeTime := rfl
@[simp] theorem clearRamp_curveSel (f : Fade) : (clearRamp f).curveSel = f.curveSel := rfl
@[simp] theorem clearRamp_outputChangeRequested (f : Fade)
    : (clearRamp f).outputChangeRequested = f.outputChangeRequested := rfl
@[simp] theorem clearRamp_fadeRateRequested (f : Fade) : (clearRamp f).fadeRateRequested = f.fadeRateRequested := rfl
@[simp] theorem clearRamp_fadePeriod (f : Fade) : (clearRamp f).fadePeriod = 0 := rfl
@[simp] theorem clearRamp_fadeIncrement (f : Fade) : (clearRamp f).fadeIncrement = 0 := rfl
@[simp] theorem clearRamp_fadeCounter (f : Fade) : (clearRamp f).fadeCounter = 0 := rfl
@[simp] theorem clearRamp_fadeDirection (f : Fade) : (clearRamp f).fadeDirection = f.fadeDirection := rfl
@[simp] theorem clearRamp_fadeMode (f : Fade) : (clearRamp f).fadeMode = f.fadeMode := rfl
@[simp] theorem clearRamp_fadeRunning (f : Fade) : (clearRamp f).fadeRunning = false := rfl
@[simp] theorem clearRamp_limitError (f : Fade) : (clearRamp f).limitError = f.limitError := rfl
@[simp] theorem clearRamp_lampOn (f : Fade) : (clearRamp f).lampOn = f.lampOn := rfl
@[simp] theorem clearRamp_lampFailure (f : Fade) : (clearRamp f).lampFailure = f.lampFailure := rfl
@[simp] theorem clearRamp_outLevel (f : Fade) : (clearRamp f).outLevel = f.outLevel := rfl
@[simp] theorem clearRamp_outCurve (f : Fade) : (clearRamp f).outCurve = f.outCurve := rfl

/-! `driveOutputs` writes the outputs and the lamp bits alone (R186). -/

@[simp] theorem driveOutputs_requestedLevel (p : FadeParams) (l : Bool) (f : Fade)
    : (driveOutputs p l f).requestedLevel = f.requestedLevel := rfl
@[simp] theorem driveOutputs_actualLevel (p : FadeParams) (l : Bool) (f : Fade)
    : (driveOutputs p l f).actualLevel = f.actualLevel := rfl
@[simp] theorem driveOutputs_minLevel (p : FadeParams) (l : Bool) (f : Fade)
    : (driveOutputs p l f).minLevel = f.minLevel := rfl
@[simp] theorem driveOutputs_maxLevel (p : FadeParams) (l : Bool) (f : Fade)
    : (driveOutputs p l f).maxLevel = f.maxLevel := rfl
@[simp] theorem driveOutputs_physicalMinLevel (p : FadeParams) (l : Bool) (f : Fade)
    : (driveOutputs p l f).physicalMinLevel = f.physicalMinLevel := rfl
@[simp] theorem driveOutputs_fadeTime (p : FadeParams) (l : Bool) (f : Fade)
    : (driveOutputs p l f).fadeTime = f.fadeTime := rfl
@[simp] theorem driveOutputs_fadeRate (p : FadeParams) (l : Bool) (f : Fade)
    : (driveOutputs p l f).fadeRate = f.fadeRate := rfl
@[simp] theorem driveOutputs_fastFadeTime (p : FadeParams) (l : Bool) (f : Fade)
    : (driveOutputs p l f).fastFadeTime = f.fastFadeTime := rfl
@[simp] theorem driveOutputs_curveSel (p : FadeParams) (l : Bool) (f : Fade)
    : (driveOutputs p l f).curveSel = f.curveSel := rfl
@[simp] theorem driveOutputs_outputChangeRequested (p : FadeParams) (l : Bool) (f : Fade)
    : (driveOutputs p l f).outputChangeRequested = f.outputChangeRequested := rfl
@[simp] theorem driveOutputs_fadeRateRequested (p : FadeParams) (l : Bool) (f : Fade)
    : (driveOutputs p l f).fadeRateRequested = f.fadeRateRequested := rfl
@[simp] theorem driveOutputs_fadePeriod (p : FadeParams) (l : Bool) (f : Fade)
    : (driveOutputs p l f).fadePeriod = f.fadePeriod := rfl
@[simp] theorem driveOutputs_fadeIncrement (p : FadeParams) (l : Bool) (f : Fade)
    : (driveOutputs p l f).fadeIncrement = f.fadeIncrement := rfl
@[simp] theorem driveOutputs_fadeCounter (p : FadeParams) (l : Bool) (f : Fade)
    : (driveOutputs p l f).fadeCounter = f.fadeCounter := rfl
@[simp] theorem driveOutputs_fadeDirection (p : FadeParams) (l : Bool) (f : Fade)
    : (driveOutputs p l f).fadeDirection = f.fadeDirection := rfl
@[simp] theorem driveOutputs_fadeMode (p : FadeParams) (l : Bool) (f : Fade)
    : (driveOutputs p l f).fadeMode = f.fadeMode := rfl
@[simp] theorem driveOutputs_fadeRunning (p : FadeParams) (l : Bool) (f : Fade)
    : (driveOutputs p l f).fadeRunning = f.fadeRunning := rfl
@[simp] theorem driveOutputs_limitError (p : FadeParams) (l : Bool) (f : Fade)
    : (driveOutputs p l f).limitError = f.limitError := rfl
@[simp] theorem driveOutputs_lampOn (p : FadeParams) (l : Bool) (f : Fade)
    : (driveOutputs p l f).lampOn = lampOnFlag f.actualLevel l := rfl
@[simp] theorem driveOutputs_lampFailure (p : FadeParams) (l : Bool) (f : Fade)
    : (driveOutputs p l f).lampFailure = lampFailureFlag l := rfl
@[simp] theorem driveOutputs_outLevel (p : FadeParams) (l : Bool) (f : Fade)
    : (driveOutputs p l f).outLevel = mapLevel p f.curveSel f.actualLevel := rfl
@[simp] theorem driveOutputs_outCurve (p : FadeParams) (l : Bool) (f : Fade)
    : (driveOutputs p l f).outCurve = f.curveSel := rfl

/-! `driveState` writes the engine and the output stream alone (R186). -/

@[simp] theorem driveState_cfg (l : Bool) (f : Fade) (s : State) : (driveState l f s).cfg = s.cfg := rfl
@[simp] theorem driveState_tx (l : Bool) (f : Fade) (s : State) : (driveState l f s).tx = s.tx := rfl
@[simp] theorem driveState_rx (l : Bool) (f : Fade) (s : State) : (driveState l f s).rx = s.rx := rfl
@[simp] theorem driveState_evQ (l : Bool) (f : Fade) (s : State) : (driveState l f s).evQ = s.evQ := rfl
@[simp] theorem driveState_fade (l : Bool) (f : Fade) (s : State)
    : (driveState l f s).fade = driveOutputs s.cfg.fade l f := rfl
@[simp] theorem driveState_loaded (l : Bool) (f : Fade) (s : State) : (driveState l f s).loaded = s.loaded := rfl
@[simp] theorem driveState_pushes (l : Bool) (f : Fade) (s : State)
    : (driveState l f s).pushes = s.pushes ++ [pushOf (driveOutputs s.cfg.fade l f)] := rfl
@[simp] theorem driveState_frontEnd (l : Bool) (f : Fade) (s : State)
    : (driveState l f s).frontEnd = s.frontEnd := rfl
@[simp] theorem driveState_inputs (l : Bool) (f : Fade) (s : State) : (driveState l f s).inputs = s.inputs := rfl
@[simp] theorem driveState_freeCount (l : Bool) (f : Fade) (s : State)
    : (driveState l f s).freeCount = s.freeCount := rfl

/-! `withFetchWord` and `arrive` write the arrivals alone. -/

@[simp] theorem withFetchWord_cfg (s : State) (n w : Nat) : (State.withFetchWord s n w).cfg = s.cfg := rfl
@[simp] theorem withFetchWord_tx (s : State) (n w : Nat) : (State.withFetchWord s n w).tx = s.tx := rfl
@[simp] theorem withFetchWord_rx (s : State) (n w : Nat) : (State.withFetchWord s n w).rx = s.rx := rfl
@[simp] theorem withFetchWord_evQ (s : State) (n w : Nat) : (State.withFetchWord s n w).evQ = s.evQ := rfl
@[simp] theorem withFetchWord_fade (s : State) (n w : Nat) : (State.withFetchWord s n w).fade = s.fade := rfl
@[simp] theorem withFetchWord_loaded (s : State) (n w : Nat) : (State.withFetchWord s n w).loaded = s.loaded := rfl
@[simp] theorem withFetchWord_pushes (s : State) (n w : Nat) : (State.withFetchWord s n w).pushes = s.pushes := rfl
@[simp] theorem withFetchWord_frontEnd (s : State) (n w : Nat)
    : (State.withFetchWord s n w).frontEnd = s.frontEnd := rfl
@[simp] theorem withFetchWord_inputs (s : State) (n w : Nat)
    : (State.withFetchWord s n w).inputs = .word .operation (tableBytes n w) :: s.inputs := rfl
@[simp] theorem withFetchWord_freeCount (s : State) (n w : Nat)
    : (State.withFetchWord s n w).freeCount = s.freeCount := rfl
@[simp] theorem arrive_cfg (x : SameClock) (s : State) : (arrive x s).cfg = s.cfg := rfl
@[simp] theorem arrive_tx (x : SameClock) (s : State) : (arrive x s).tx = s.tx := rfl
@[simp] theorem arrive_rx (x : SameClock) (s : State) : (arrive x s).rx = s.rx := rfl
@[simp] theorem arrive_evQ (x : SameClock) (s : State) : (arrive x s).evQ = s.evQ := rfl
@[simp] theorem arrive_fade (x : SameClock) (s : State) : (arrive x s).fade = s.fade := rfl
@[simp] theorem arrive_loaded (x : SameClock) (s : State) : (arrive x s).loaded = s.loaded := rfl
@[simp] theorem arrive_pushes (x : SameClock) (s : State) : (arrive x s).pushes = s.pushes := rfl
@[simp] theorem arrive_frontEnd (x : SameClock) (s : State) : (arrive x s).frontEnd = s.frontEnd := rfl
@[simp] theorem arrive_inputs (x : SameClock) (s : State) : (arrive x s).inputs = s.inputs ++ arbitrate s.cfg x := rfl
@[simp] theorem arrive_freeCount (x : SameClock) (s : State) : (arrive x s).freeCount = s.freeCount := rfl

end Sys2Proof.Machine
end

