-- ==== Sys2Proof/Laws/Codec.lean ====
section
/-! SUPPORT. What each shared operation of the codec can do, said once: composition, the byte packer, the decode
actions, a sample, the front end. -/

namespace Sys2Proof.Machine

/-! Composition. -/

@[simp] theorem andThen_next (s : State) (f : State → Host.Outcome State Fault Refusal) :
    andThen (.next s) f = f s := rfl

@[simp] theorem andThen_fault (r : Fault) (f : State → Host.Outcome State Fault Refusal) :
    andThen (.fault r) f = .fault r := rfl

@[simp] theorem andThen_refused (r : Refusal) (f : State → Host.Outcome State Fault Refusal) :
    andThen (.refused r) f = .refused r := rfl

theorem andThen_eq_next {o : Host.Outcome State Fault Refusal} {f : State → Host.Outcome State Fault Refusal}
    {t : State} : andThen o f = .next t ↔ ∃ s, o = .next s ∧ f s = .next t := by
  cases o <;> simp

theorem andThen_eq_fault {o : Host.Outcome State Fault Refusal} {f : State → Host.Outcome State Fault Refusal}
    {r : Fault} : andThen o f = .fault r ↔ o = .fault r ∨ ∃ s, o = .next s ∧ f s = .fault r := by
  cases o <;> simp

theorem andThen_assoc (o : Host.Outcome State Fault Refusal) (f g : State → Host.Outcome State Fault Refusal) :
    andThen (andThen o f) g = andThen o fun s => andThen (f s) g := by
  cases o <;> rfl

/-! The byte packer (R146). -/

theorem shiftIn_low (v : Byte) (b : Bool) : (shiftIn v b).getLsbD 0 = b := by
  have h : (v.extractLsb' 0 7 ++ BitVec.ofBool b : BitVec (7 + 1)).getLsbD 0 = b := by
    rw [BitVec.getLsbD_append]
    simp
  exact h

theorem shiftIn_high (v : Byte) (b : Bool) {i : Nat} (h : i < 7) :
    (shiftIn v b).getLsbD (i + 1) = v.getLsbD i := by
  have e : (v.extractLsb' 0 7 ++ BitVec.ofBool b : BitVec (7 + 1)).getLsbD (i + 1) = v.getLsbD i := by
    rw [BitVec.getLsbD_append, BitVec.getLsbD_extractLsb']
    simp [h]
  exact e

theorem pushBit_short {b : Bool} {s : State} (h : s.rx.rxBitCnt ≠ 7) :
    pushBit b s =
      .next { s with rx := { s.rx with rxShift := shiftIn s.rx.rxShift b, rxBitCnt := s.rx.rxBitCnt + 1 } } := by
  unfold pushBit
  rw [if_neg h]

theorem pushBit_full {b : Bool} {s : State} (h : s.rx.rxBitCnt = 7) (hb : s.rx.rxByte < s.cfg.nmax) :
    pushBit b s = .next { s with rx := storeByte (shiftIn s.rx.rxShift b) s.rx } := by
  unfold pushBit
  rw [if_pos h, if_pos hb]

/-- All the byte packer can do: shift a bit in, or store the completed byte, or find no room for it. -/
theorem pushBit_cases (b : Bool) (s : State) :
    (s.rx.rxBitCnt ≠ 7 ∧ pushBit b s =
      .next { s with rx := { s.rx with rxShift := shiftIn s.rx.rxShift b, rxBitCnt := s.rx.rxBitCnt + 1 } })
    ∨ (s.rx.rxBitCnt = 7 ∧ s.rx.rxByte < s.cfg.nmax
      ∧ pushBit b s = .next { s with rx := storeByte (shiftIn s.rx.rxShift b) s.rx })
    ∨ (s.rx.rxBitCnt = 7 ∧ s.cfg.nmax ≤ s.rx.rxByte ∧ pushBit b s = .fault (.noSuchIndex s.rx.rxByte)) := by
  by_cases h : s.rx.rxBitCnt = 7
  · by_cases hb : s.rx.rxByte < s.cfg.nmax
    · exact .inr (.inl ⟨h, hb, pushBit_full h hb⟩)
    · exact .inr (.inr ⟨h, by omega, by unfold pushBit; rw [if_pos h, if_neg hb]⟩)
  · exact .inl ⟨h, pushBit_short h⟩

/-- The byte packer writes receive registers alone. -/
theorem pushBit_frame {b : Bool} {s t : State} (h : pushBit b s = .next t) : t = { s with rx := t.rx } := by
  rcases pushBit_cases b s with ⟨_, e⟩ | ⟨_, _, e⟩ | ⟨_, _, e⟩ <;> rw [e] at h <;> cases h <;> rfl

/-- The receive registers that neither the packer nor a completed byte touches. -/
theorem storeByte_keeps (v : Byte) (r : Rx) :
    (storeByte v r).rxLen = r.rxLen ∧ (storeByte v r).rxPrev = r.rxPrev ∧ (storeByte v r).rxSyncCnt = r.rxSyncCnt
    ∧ (storeByte v r).rxMiss = r.rxMiss ∧ (storeByte v r).rxEdgeSeen = r.rxEdgeSeen
    ∧ (storeByte v r).rxTask = r.rxTask ∧ (storeByte v r).rxCause = r.rxCause := by
  unfold storeByte
  dsimp only
  split <;> exact ⟨rfl, rfl, rfl, rfl, rfl, rfl, rfl⟩

/-- What a completed byte does (R146). -/
theorem storeByte_fields (v : Byte) (r : Rx) :
    (storeByte v r).rxShift = v ∧ (storeByte v r).rxBuf = Memory.write r.rxBuf r.rxByte v
    ∧ (storeByte v r).rxByte = r.rxByte + 1 ∧ (storeByte v r).rxRemain = r.rxRemain - 1
    ∧ (storeByte v r).rxBitCnt = 0
    ∧ (storeByte v r).rxPhase = (if r.rxRemain - 1 = 0 then .stop else r.rxPhase)
    ∧ (storeByte v r).rxStopCnt = (if r.rxRemain - 1 = 0 then 0 else r.rxStopCnt) := by
  unfold storeByte
  dsimp only
  split <;> simp_all

/-! The decode actions (R144). -/

/-- A decode action writes receive registers and the queue alone. -/
theorem applyAction_frame {a : DecAction} {s t : State} (h : applyAction a s = .next t) :
    t = { s with rx := t.rx, evQ := t.evQ } := by
  cases a with
  | emit0 | emit1 =>
    obtain ⟨u, hu, he⟩ := andThen_eq_next.mp h
    cases he
    have := pushBit_frame hu
    rw [this]
    rfl
  | emit01 =>
    obtain ⟨u, hu, he⟩ := andThen_eq_next.mp h
    have h1 := pushBit_frame hu
    split at he
    · obtain ⟨w, hw, he⟩ := andThen_eq_next.mp he
      cases he
      have h2 := pushBit_frame hw
      rw [h2, h1]
      rfl
    · cases he
      rw [h1]
      rfl
  | error =>
    cases h
    rfl

/-- A decode action never refuses. -/
theorem applyAction_not_refused (a : DecAction) (s : State) (r : Refusal) : applyAction a s ≠ .refused r := by
  have hp : ∀ b u, pushBit b u ≠ .refused r := by
    intro b u
    rcases pushBit_cases b u with ⟨_, e⟩ | ⟨_, _, e⟩ | ⟨_, _, e⟩ <;> simp [e]
  cases a with
  | emit0 =>
    intro h
    rcases hu : pushBit false s with u | f | q
    · simp [applyAction, hu] at h
    · simp [applyAction, hu] at h
    · exact hp _ _ (hu.trans (by simpa [applyAction, hu] using h))
  | emit1 =>
    intro h
    rcases hu : pushBit true s with u | f | q
    · simp [applyAction, hu] at h
    · simp [applyAction, hu] at h
    · exact hp _ _ (hu.trans (by simpa [applyAction, hu] using h))
  | emit01 =>
    intro h
    rcases hu : pushBit false s with u | f | q
    · simp only [applyAction, hu, andThen_next] at h
      split at h
      · rcases hw : pushBit true u with w | f | q
        · simp [hw] at h
        · simp [hw] at h
        · exact hp _ _ (hw.trans (by simpa [hw] using h))
      · cases h
    · simp [applyAction, hu] at h
    · exact hp _ _ (hu.trans (by simpa [applyAction, hu] using h))
  | error => intro h; cases h

/-! A sample (R144). -/

theorem syncSample_frame (cOff cOn : DurClass) (s : State) :
    syncSample cOff cOn s = { s with rx := (syncSample cOff cOn s).rx, evQ := (syncSample cOff cOn s).evQ } := by
  unfold syncSample
  dsimp only
  split <;> rfl

/-- All a sample can do, by receive phase. -/
theorem sample_cases (cOff cOn : DurClass) (a : DecAction) (s : State) :
    (s.rx.rxPhase = .done ∧ sample cOff cOn a s = .next s)
    ∨ (s.rx.rxPhase = .stop ∧ sample cOff cOn a s = .next (abort .frameTimingError s))
    ∨ (s.rx.rxPhase = .sync ∧ sample cOff cOn a s = .next (syncSample cOff cOn (clearMiss (noteEdge s))))
    ∨ (s.rx.rxPhase = .data ∧ sample cOff cOn a s = applyAction a (clearMiss s)) := by
  rcases h : s.rx.rxPhase <;> simp [sample, h]

/-- A sample writes receive registers and the queue alone. -/
theorem sample_frame {cOff cOn : DurClass} {a : DecAction} {s t : State} (h : sample cOff cOn a s = .next t) :
    t = { s with rx := t.rx, evQ := t.evQ } := by
  rcases sample_cases cOff cOn a s with ⟨_, e⟩ | ⟨_, e⟩ | ⟨_, e⟩ | ⟨_, e⟩ <;> rw [e] at h
  · cases h; rfl
  · cases h; rfl
  · cases h
    rw [syncSample_frame]
    simp
  · rw [applyAction_frame h]
    rfl

/-! The front-end events (R142, R144, R150). -/

/-- A front-end event writes receive registers and the queue alone. -/
theorem execFrontEvent_frame {e : FrontEvent} {s t : State} (h : execFrontEvent e s = .next t) :
    t = { s with rx := t.rx, evQ := t.evQ } := by
  cases e with
  | rise =>
    simp only [execFrontEvent, execRxRise] at h
    split at h <;> cases h
    · rfl
    · rfl
    · simp [State.ext_iff]
    · simp [State.ext_iff]
  | sample off on => exact sample_frame h
  | tick =>
    simp only [execFrontEvent, execRxTick] at h
    have hm : missWindow s = { s with rx := (missWindow s).rx, evQ := (missWindow s).evQ } := by
      unfold missWindow
      dsimp only
      split
      · split <;> rfl
      · rfl
    split at h
    · cases h; rfl
    · cases h; exact hm
    · cases h; exact hm
    · simp only [stopWindow] at h
      split at h
      · split at h <;> cases h
        rfl
      · cases h; rfl

theorem execFrontEvents_append (es fs : List FrontEvent) (s : State) :
    execFrontEvents (es ++ fs) s = andThen (execFrontEvents es s) (execFrontEvents fs) := by
  induction es generalizing s with
  | nil => rfl
  | cons e es ih =>
    simp only [List.cons_append, execFrontEvents, andThen_assoc]
    congr 1
    funext t
    exact ih t

theorem holdLine_add (l : Bool) (m n : Nat) (s : State) :
    holdLine l (m + n) s = andThen (holdLine l m s) (holdLine l n) := by
  induction m generalizing s with
  | zero => simp [holdLine]
  | succ m ih =>
    rw [Nat.succ_add]
    simp only [holdLine, andThen_assoc]
    congr 1
    funext t
    exact ih t

theorem carryLevels_append (ls ms : List Bool) (s : State) :
    carryLevels (ls ++ ms) s = andThen (carryLevels ls s) (carryLevels ms) := by
  induction ls generalizing s with
  | nil => rfl
  | cons l ls ih =>
    simp only [List.cons_append, carryLevels, andThen_assoc]
    congr 1
    funext t
    exact ih t

/-- A capture clock moves the front end and executes what it emitted. -/
theorem clockLine_eq (l : Bool) (s : State) :
    clockLine l s =
      execFrontEvents (clockFrontEnd s.cfg l s.frontEnd).2.toList
        { s with frontEnd := (clockFrontEnd s.cfg l s.frontEnd).1 } := by
  unfold clockLine
  rcases clockFrontEnd s.cfg l s.frontEnd with ⟨f, _ | e⟩
  · rfl
  · simp only [Option.toList, execFrontEvents]
    cases execFrontEvent e { s with frontEnd := f } <;> rfl

/-! The transmitter (R118). -/

/-- All a transmit tick can do. -/
theorem execTxTick_cases (s : State) :
    (txReads s.tx = true ∧ s.cfg.nmax ≤ s.tx.txByte ∧ execTxTick s = .fault (.noSuchIndex s.tx.txByte))
    ∨ (¬ (txReads s.tx = true ∧ s.cfg.nmax ≤ s.tx.txByte)
      ∧ ((txCompletes s = true
          ∧ execTxTick s = .next (post s.tx.txTask .xmitDone [] { s with tx := tickTx s.cfg.codec s.tx }))
        ∨ (txCompletes s = false ∧ execTxTick s = .next { s with tx := tickTx s.cfg.codec s.tx }))) := by
  unfold execTxTick
  by_cases h : txReads s.tx = true ∧ s.cfg.nmax ≤ s.tx.txByte
  · exact .inl ⟨h.1, h.2, if_pos h⟩
  · refine .inr ⟨h, ?_⟩
    rw [if_neg h]
    by_cases hc : txCompletes s = true
    · exact .inl ⟨hc, by simp [hc]⟩
    · exact .inr ⟨by simpa using hc, by simp [hc]⟩

/-- A transmit tick writes transmit registers and the queue alone. -/
theorem execTxTick_frame {s t : State} (h : execTxTick s = .next t) : t = { s with tx := t.tx, evQ := t.evQ } := by
  rcases execTxTick_cases s with ⟨_, _, e⟩ | ⟨_, ⟨_, e⟩ | ⟨_, e⟩⟩ <;> rw [e] at h <;> cases h <;> rfl

end Sys2Proof.Machine
end

