-- ==== Sys2Proof/Laws/FadeLaws.lean ====
section
/-! SUPPORT. What the helpers of the fade engine can do, said once: the level steps (R171), the clamp (R172), the
stepping loop (R186, R188) and the accumulating half of a tick. -/

namespace Sys2Proof.Machine

/-! The level steps. -/

/-- An upward step moves up, except from 0 with a lower limit of 0. -/
theorem lt_stepUp {m a r : Level} (h : a < r) (hm : m ≠ 0 ∨ a ≠ 0) : a < stepUp m a := by
  unfold stepUp
  split
  · rename_i h0
    subst h0
    rcases hm with hm | hm
    · bv_omega
    · exact absurd rfl hm
  · bv_omega

/-- A downward step moves down. -/
theorem stepDown_lt {m a r : Level} (h : r < a) : stepDown m a < a := by
  unfold stepDown
  split <;> bv_omega

/-- A downward step never passes a target that the lower limit allows (R171, R195). -/
theorem le_stepDown {m a r : Level} (h : r < a) (hr : r = 0 ∨ m ≤ r) : r ≤ stepDown m a := by
  unfold stepDown
  split
  · rcases hr with hr | hr
    · bv_omega
    · bv_omega
  · bv_omega

/-- An upward step never passes a target that the lower limit allows (R171, R195). -/
theorem stepUp_le {m a r : Level} (h : a < r) (hr : m ≤ r) : stepUp m a ≤ r := by
  unfold stepUp
  split <;> bv_omega

/-- The clamped level is 0 or inside the limits, if these are in order (R172). -/
theorem clamp_inside {lo hi v : Level} (h : lo ≤ hi) :
    (clamp lo hi v).1 = 0 ∨ (lo ≤ (clamp lo hi v).1 ∧ (clamp lo hi v).1 ≤ hi) := by
  unfold clamp
  split
  · exact .inl rfl
  · split
    · exact .inr ⟨by bv_omega, h⟩
    · split
      · exact .inr ⟨h, by bv_omega⟩
      · exact .inr ⟨by bv_omega, by bv_omega⟩

/-! The stepping loop. -/

/-- An upward step stands still only at 0 with a lower limit of 0. -/
theorem stepUp_eq_self {m a : Level} : stepUp m a = a ↔ m = 0 ∧ a = 0 := by
  unfold stepUp
  split
  · rename_i h
    subst h
    simp
  · rename_i h
    constructor
    · intro e
      bv_omega
    · exact fun e => absurd e.2 h

/-- How the turns in place end: at the target with an increment of 0, else with less than an increment left. -/
theorem climbInPlace_ends (inc : Micros) (r a : Level) (k : Micros) :
    ((climbInPlace inc r a k).2 < inc ∨ r ≤ (climbInPlace inc r a k).1)
    ∧ (climbInPlace inc r a k).2.toNat ≤ k.toNat := by
  unfold climbInPlace
  split
  · exact ⟨.inr (Nat.le_refl _), Nat.le_refl _⟩
  · rename_i h
    have hp : 0 < inc.toNat := by bv_omega
    refine ⟨.inl ?_, ?_⟩
    · show (k % inc).toNat < inc.toNat
      rw [BitVec.toNat_umod]
      exact Nat.mod_lt _ hp
    · show (k % inc).toNat ≤ k.toNat
      rw [BitVec.toNat_umod]
      exact Nat.mod_le _ _

/-- One turn of the upward loop. -/
theorem climb_turn (inc : Micros) (m r : Level) (n : Nat) (a : Level) (k : Micros) :
    climb inc m r (n + 1) a k =
      if k ≥ inc ∧ a < r then
        if stepUp m a = a then climbInPlace inc r a k else climb inc m r n (stepUp m a) (k - inc)
      else (a, k) := rfl

/-- One turn of the downward loop. -/
theorem descend_turn (inc : Micros) (m r : Level) (n : Nat) (a : Level) (k : Micros) :
    descend inc m r (n + 1) a k =
      if k ≥ inc ∧ a > r then descend inc m r n (stepDown m a) (k - inc) else (a, k) := rfl

/-- How an upward loop with turns enough ends (R186, R188): the counter holds no further increment, or the target is
reached; the counter has not grown. -/
theorem climb_ends {inc : Micros} {m r : Level} : ∀ {n : Nat} {a : Level} {k : Micros}, r.toNat ≤ a.toNat + n →
    ((climb inc m r (n + 1) a k).2 < inc ∨ r ≤ (climb inc m r (n + 1) a k).1)
    ∧ (climb inc m r (n + 1) a k).2.toNat ≤ k.toNat
  | n, a, k, h => by
    unfold climb
    split
    · rename_i hc
      split
      · exact climbInPlace_ends inc r a k
      · rename_i hs
        have hu : a.toNat < (stepUp m a).toNat :=
          lt_stepUp hc.2 (by by_contra hm; exact hs (stepUp_eq_self.mpr (by simpa using hm)))
        have hk : (k - inc).toNat ≤ k.toNat := by
          have := hc.1
          bv_omega
        cases n with
        | zero =>
          have := hc.2
          bv_omega
        | succ n =>
          have ih := climb_ends (inc := inc) (m := m) (r := r) (n := n) (a := stepUp m a) (k := k - inc) (by omega)
          exact ⟨ih.1, by omega⟩
    · rename_i hc
      refine ⟨?_, Nat.le_refl _⟩
      by_cases hk : k ≥ inc
      · refine .inr ?_
        have : ¬ a < r := fun ha => hc ⟨hk, ha⟩
        bv_omega
      · refine .inl ?_
        bv_omega

/-- How a downward loop with turns enough ends (R186, R188). -/
theorem descend_ends {inc : Micros} {m r : Level} : ∀ {n : Nat} {a : Level} {k : Micros}, a.toNat ≤ r.toNat + n →
    ((descend inc m r (n + 1) a k).2 < inc ∨ (descend inc m r (n + 1) a k).1 ≤ r)
    ∧ (descend inc m r (n + 1) a k).2.toNat ≤ k.toNat
  | n, a, k, h => by
    unfold descend
    split
    · rename_i hc
      have hu : (stepDown m a).toNat < a.toNat := stepDown_lt hc.2
      have hk : (k - inc).toNat ≤ k.toNat := by
        have := hc.1
        bv_omega
      cases n with
      | zero =>
        have := hc.2
        bv_omega
      | succ n =>
        have ih := descend_ends (inc := inc) (m := m) (r := r) (n := n) (a := stepDown m a) (k := k - inc) (by omega)
        exact ⟨ih.1, by omega⟩
    · rename_i hc
      refine ⟨?_, Nat.le_refl _⟩
      by_cases hk : k ≥ inc
      · refine .inr ?_
        have : ¬ a > r := fun ha => hc ⟨hk, ha⟩
        bv_omega
      · refine .inl ?_
        bv_omega

/-- More turns than enough change nothing. -/
theorem climb_succ {inc : Micros} {m r : Level} : ∀ {n : Nat} {a : Level} {k : Micros}, r.toNat ≤ a.toNat + n →
    climb inc m r (n + 2) a k = climb inc m r (n + 1) a k
  | n, a, k, h => by
    rw [climb_turn inc m r (n + 1) a k, climb_turn inc m r n a k]
    split
    · rename_i hc
      split
      · rfl
      · rename_i hs
        have hu : a.toNat < (stepUp m a).toNat :=
          lt_stepUp hc.2 (by by_contra hm; exact hs (stepUp_eq_self.mpr (by simpa using hm)))
        cases n with
        | zero =>
          have := hc.2
          bv_omega
        | succ n => exact climb_succ (by omega)
    · rfl

/-- More turns than enough change nothing. -/
theorem descend_succ {inc : Micros} {m r : Level} : ∀ {n : Nat} {a : Level} {k : Micros}, a.toNat ≤ r.toNat + n →
    descend inc m r (n + 2) a k = descend inc m r (n + 1) a k
  | n, a, k, h => by
    rw [descend_turn inc m r (n + 1) a k, descend_turn inc m r n a k]
    split
    · rename_i hc
      have hu : (stepDown m a).toNat < a.toNat := stepDown_lt hc.2
      cases n with
      | zero =>
        have := hc.2
        bv_omega
      | succ n => exact descend_succ (by omega)
    · rfl

/-- The upward loop is the `while` loop of R186: it takes a turn and goes on, wherever a turn moves the level. -/
theorem climb_loop {inc : Micros} {m r a : Level} {k : Micros} (hm : m ≠ 0 ∨ a ≠ 0) :
    climb inc m r levelTurns a k =
      if k ≥ inc ∧ a < r then climb inc m r levelTurns (stepUp m a) (k - inc) else (a, k) := by
  have hs : ¬ stepUp m a = a := fun e => by
    have := stepUp_eq_self.mp e
    rcases hm with h | h
    · exact h this.1
    · exact h this.2
  refine (climb_turn inc m r 255 a k).trans ?_
  rw [if_neg hs]
  split
  · rename_i hc
    have hu : a.toNat < (stepUp m a).toNat := lt_stepUp hc.2 hm
    exact (climb_succ (n := 254) (by have := r.isLt; omega)).symm
  · rfl

/-- At level 0 with a lower limit of 0 a turn of the loop of R186 only lowers the counter, and the loop goes on. -/
theorem climb_loop_in_place {inc : Micros} {r : Level} {k : Micros} (hi : inc ≠ 0) :
    climb inc 0 r levelTurns 0 k =
      if k ≥ inc ∧ 0 < r then climb inc 0 r levelTurns (stepUp 0 0) (k - inc) else (0, k) := by
  have h0 : stepUp (0 : Level) 0 = 0 := rfl
  have hv : ∀ j : Micros, climb inc 0 r levelTurns 0 j = if j ≥ inc ∧ 0 < r then (0, j % inc) else (0, j) := by
    intro j
    refine (climb_turn inc 0 r 255 0 j).trans ?_
    rw [if_pos h0, climbInPlace, if_neg hi]
  rw [h0, hv, hv]
  have hp : 0 < inc.toNat := by bv_omega
  split
  · rename_i hc
    have hle : inc.toNat ≤ k.toNat := hc.1
    have hsub : (k - inc).toNat = k.toNat - inc.toNat := by bv_omega
    split
    · refine Prod.ext rfl (BitVec.eq_of_toNat_eq ?_)
      show (k % inc).toNat = ((k - inc) % inc).toNat
      rw [BitVec.toNat_umod, BitVec.toNat_umod, hsub, Nat.mod_eq_sub_mod hle]
    · rename_i hn
      refine Prod.ext rfl (BitVec.eq_of_toNat_eq ?_)
      have hlt : (k - inc).toNat < inc.toNat := by
        by_contra hge
        exact hn ⟨by bv_omega, hc.2⟩
      show (k % inc).toNat = (k - inc).toNat
      rw [BitVec.toNat_umod, Nat.mod_eq_sub_mod hle, ← hsub, Nat.mod_eq_of_lt hlt]
  · rfl

/-- The downward loop is the `while` loop of R186. -/
theorem descend_loop {inc : Micros} {m r a : Level} {k : Micros} :
    descend inc m r levelTurns a k =
      if k ≥ inc ∧ a > r then descend inc m r levelTurns (stepDown m a) (k - inc) else (a, k) := by
  refine (descend_turn inc m r 255 a k).trans ?_
  split
  · rename_i hc
    have hu : (stepDown m a).toNat < a.toNat := stepDown_lt hc.2
    exact (descend_succ (n := 254) (by have := a.isLt; omega)).symm
  · rfl

/-- An upward loop stays at or below a target above the lower limit (R195). -/
theorem climb_le {inc : Micros} {m r : Level} (hr : m ≤ r) : ∀ {n : Nat} {a : Level} {k : Micros}, a ≤ r →
    a ≤ (climb inc m r n a k).1 ∧ (climb inc m r n a k).1 ≤ r
  | 0, a, _, ha => ⟨Nat.le_refl a.toNat, ha⟩
  | n + 1, a, k, ha => by
    unfold climb
    split
    · rename_i hc
      split
      · unfold climbInPlace
        split
        · exact ⟨ha, Nat.le_refl r.toNat⟩
        · exact ⟨Nat.le_refl a.toNat, ha⟩
      · have ih := climb_le (inc := inc) (n := n) (k := k - inc) hr (stepUp_le hc.2 hr)
        refine ⟨?_, ih.2⟩
        have h0 : a ≤ stepUp m a := by
          unfold stepUp
          have := hc.2
          split <;> bv_omega
        exact Nat.le_trans h0 ih.1
    · exact ⟨Nat.le_refl a.toNat, ha⟩

/-! The accumulating half of a tick. -/

/-- A tick moves no further once the counter holds no whole increment or the target is reached (R188). -/
theorem moveLevel_ends (p : FadeParams) (f : Fade) :
    ((moveLevel p f).2 < f.fadeIncrement ∨ reached { f with actualLevel := (moveLevel p f).1 } = true)
    ∧ (moveLevel p f).2.toNat ≤ (f.fadeCounter + p.tickUs).toNat := by
  unfold moveLevel reached
  rcases hd : f.fadeDirection
  · have h := descend_ends (inc := f.fadeIncrement) (m := f.minLevel) (r := f.requestedLevel) (n := 255)
      (a := f.actualLevel) (k := f.fadeCounter + p.tickUs) (by have := f.actualLevel.isLt; omega)
    exact ⟨h.1.imp id decide_eq_true, h.2⟩
  · have h := climb_ends (inc := f.fadeIncrement) (m := f.minLevel) (r := f.requestedLevel) (n := 255)
      (a := f.actualLevel) (k := f.fadeCounter + p.tickUs) (by have := f.requestedLevel.isLt; omega)
    exact ⟨h.1.imp id decide_eq_true, h.2⟩

/-- All the end of a tick can do. -/
theorem endTick_cases (p : FadeParams) (f : Fade) :
    (f.fadeMode = .time ∧ reached f = true ∧ endTick p f = clearRamp f)
    ∨ (f.fadeMode = .time ∧ reached f = false ∧ endTick p f = f)
    ∨ (f.fadeMode = .rate ∧ remaining p f = 0 ∧ endTick p f = clearRamp f)
    ∨ (f.fadeMode = .rate ∧ remaining p f ≠ 0 ∧ endTick p f = { f with fadePeriod := remaining p f }) := by
  unfold endTick
  split
  · rename_i h
    by_cases hr : reached f = true
    · exact .inl ⟨h, hr, if_pos hr⟩
    · exact .inr (.inl ⟨h, by simpa using hr, if_neg hr⟩)
  · rename_i h
    by_cases hr : remaining p f = 0
    · exact .inr (.inr (.inl ⟨h, hr, if_pos hr⟩))
    · exact .inr (.inr (.inr ⟨h, hr, if_neg hr⟩))

/-- The end of a tick writes the four ramp registers alone (R44, R186). -/
theorem endTick_frame (p : FadeParams) (f : Fade) :
    endTick p f = { f with
      fadeRunning := (endTick p f).fadeRunning
      fadePeriod := (endTick p f).fadePeriod
      fadeIncrement := (endTick p f).fadeIncrement
      fadeCounter := (endTick p f).fadeCounter } := by
  rcases endTick_cases p f with ⟨_, _, e⟩ | ⟨_, _, e⟩ | ⟨_, _, e⟩ | ⟨_, _, e⟩ <;> rw [e] <;> rfl

/-- The accumulating half of a tick writes the level and the four ramp registers alone (R44, R186). -/
theorem stepRamp_frame (p : FadeParams) (f : Fade) :
    stepRamp p f = { f with
      actualLevel := (stepRamp p f).actualLevel
      fadeRunning := (stepRamp p f).fadeRunning
      fadePeriod := (stepRamp p f).fadePeriod
      fadeIncrement := (stepRamp p f).fadeIncrement
      fadeCounter := (stepRamp p f).fadeCounter } := by
  unfold stepRamp
  rcases endTick_cases p { f with actualLevel := (moveLevel p f).1, fadeCounter := (moveLevel p f).2 } with
    ⟨_, _, e⟩ | ⟨_, _, e⟩ | ⟨_, _, e⟩ | ⟨_, _, e⟩ <;> rw [e] <;> rfl

/-- `FADE_TICK` always completes, and writes the engine and the output stream alone (R186). -/
theorem execFadeTick_frame (ledOk : Bool) (s : State) :
    ∃ t, execFadeTick ledOk s = .next t ∧ t = { s with fade := t.fade, pushes := t.pushes } :=
  ⟨_, rfl, rfl⟩

/-- All `FADE_SETUP` can do (R174, U2). -/
theorem execFadeSetup_cases (s : State) :
    (s.fade.outputChangeRequested = true ∧ parametersLoaded s.loaded = false
      ∧ execFadeSetup s = .refused .parametersNotLoaded)
    ∨ (s.fade.outputChangeRequested = false ∧ execFadeSetup s = .next s)
    ∨ (s.fade.outputChangeRequested = true ∧ parametersLoaded s.loaded = true
      ∧ execFadeSetup s = .next { s with fade := setupFade s.cfg.fade s.fade }) := by
  unfold execFadeSetup
  cases hr : s.fade.outputChangeRequested
  · refine .inr (.inl ⟨rfl, ?_⟩)
    simp [setupFade, hr]
  · cases hl : parametersLoaded s.loaded
    · exact .inl ⟨rfl, rfl, by simp⟩
    · exact .inr (.inr ⟨rfl, rfl, by simp⟩)

end Sys2Proof.Machine
end

