-- ==== Sys2Proof/Laws/Words.lean ====
section
/-! SUPPORT. Numbers and bytes: what the decoder and the encoder share (R87; log entry 8). -/

namespace Sys2Proof

@[simp] theorem bytesOfNat_length : ∀ (n w : Nat), (bytesOfNat n w).length = n
  | 0, _ => rfl
  | n + 1, w => by simp [bytesOfNat, bytesOfNat_length n]

theorem natOfBytes_lt : ∀ (bs : List Byte), natOfBytes bs < 256 ^ bs.length
  | [] => by simp [natOfBytes]
  | b :: bs => by
    have h := natOfBytes_lt bs
    have hb := b.isLt
    simp only [natOfBytes, List.length_cons, Nat.pow_succ]
    omega

/-- The bytes of a number give it back, as far as they reach. -/
theorem natOfBytes_bytesOfNat : ∀ (n w : Nat), natOfBytes (bytesOfNat n w) = w % 256 ^ n
  | 0, w => by simp [bytesOfNat, natOfBytes, Nat.mod_one]
  | n + 1, w => by
    simp only [bytesOfNat, natOfBytes, natOfBytes_bytesOfNat n, BitVec.toNat_ofNat]
    rw [show (256 : Nat) ^ (n + 1) = 256 * 256 ^ n from by ring, Nat.mod_mul]

theorem natOfBytes_bytesOfNat_of_lt {n w : Nat} (h : w < 256 ^ n) : natOfBytes (bytesOfNat n w) = w := by
  rw [natOfBytes_bytesOfNat, Nat.mod_eq_of_lt h]

/-- The number of some bytes gives them back. -/
theorem bytesOfNat_natOfBytes : ∀ (bs : List Byte), bytesOfNat bs.length (natOfBytes bs) = bs
  | [] => rfl
  | b :: bs => by
    have hb := b.isLt
    have h1 : (b.toNat + 256 * natOfBytes bs) / 256 = natOfBytes bs := by omega
    have h2 : BitVec.ofNat 8 (b.toNat + 256 * natOfBytes bs) = b := by
      apply BitVec.eq_of_toNat_eq
      simp only [BitVec.toNat_ofNat]
      omega
    simp only [List.length_cons, natOfBytes, bytesOfNat, h1, h2, bytesOfNat_natOfBytes bs]

theorem bytesOfNat_zero : ∀ (n : Nat), natOfBytes (bytesOfNat n 0) = 0
  | n => by rw [natOfBytes_bytesOfNat, Nat.zero_mod]

/-- A field and what stands above it fit the widths of both. -/
theorem field_lt {a b p q : Nat} (ha : a < 2 ^ p) (hb : b < 2 ^ q) : a + 2 ^ p * b < 2 ^ (p + q) := by
  have : 2 ^ p * (b + 1) ≤ 2 ^ p * 2 ^ q := Nat.mul_le_mul_left _ hb
  rw [Nat.pow_add]
  rw [Nat.mul_add, Nat.mul_one] at this
  omega

/-- The low field of a word. -/
theorem field_mod {a p : Nat} (b : Nat) (ha : a < 2 ^ p) : (a + 2 ^ p * b) % 2 ^ p = a := by
  rw [Nat.add_mul_mod_self_left, Nat.mod_eq_of_lt ha]

/-- What stands above the low field of a word. -/
theorem field_div {a p : Nat} (b : Nat) (ha : a < 2 ^ p) : (a + 2 ^ p * b) / 2 ^ p = b := by
  rw [Nat.add_mul_div_left _ _ (Nat.two_pow_pos p), Nat.div_eq_of_lt ha, Nat.zero_add]

theorem pow_bytes (n : Nat) : (256 : Nat) ^ n = 2 ^ (8 * n) := by
  rw [Nat.pow_mul]

/-- The whole bytes of a word of `k` bits hold it. -/
theorem lt_of_width {w k : Nat} (h : w < 2 ^ k) : w < 256 ^ ((k + 7) / 8) := by
  rw [pow_bytes]
  exact Nat.lt_of_lt_of_le h (Nat.pow_le_pow_right (by omega) (by omega))

/-- The bytes of an encoded instruction hold its word, where the word fits its width. -/
theorem natOfBytes_encode {c : Config} {i : Instr} (h : encodeWord c i < 2 ^ wordWidth c i) :
    natOfBytes (encode c i) = encodeWord c i := natOfBytes_bytesOfNat_of_lt (lt_of_width h)

end Sys2Proof
end

