-- ==== Sys2Proof/Laws/PerInstr.lean ====
section
/-! SUPPORT. Per-instruction laws about the syntax: the word of every well-formed instruction fits its width (R87). -/

namespace Sys2Proof.Laws

/-- The word of a well-formed instruction fits the width its format gives it (R14, R87), under any parameters. -/
def EncodeFits.Statement (i : Instr) : Prop :=
  ∀ c : Config, i.wellFormed c = true → encodeWord c i < 2 ^ wordWidth c i

theorem EncodeFits.transmit (task : Nat) (data : List Byte) : EncodeFits.Statement (.transmit task data) := by
  intro c h
  simp only [Instr.wellFormed, decide_eq_true_eq] at h
  have hd : natOfBytes data < 2 ^ (8 * data.length) := by rw [← pow_bytes]; exact natOfBytes_lt data
  have h1 := field_lt h.2 hd
  have h2 := field_lt h.1 h1
  have h3 := field_lt (a := 1) (p := 4) (by decide) h2
  simpa [encodeWord, wordWidth, Nat.add_assoc] using h3

theorem EncodeFits.receive (len task : Nat) : EncodeFits.Statement (.receive len task) := by
  intro c h
  simp only [Instr.wellFormed, decide_eq_true_eq] at h
  have h2 := field_lt h.1 h.2
  have h3 := field_lt (a := 2) (p := 4) (by decide) h2
  simpa [encodeWord, wordWidth, Nat.add_assoc] using h3

theorem EncodeFits.rxSample (off on : Nat) : EncodeFits.Statement (.rxSample off on) := by
  intro c h
  simp only [Instr.wellFormed, decide_eq_true_eq] at h
  have h2 := field_lt h.1 h.2
  have h3 := field_lt (a := 6) (p := 4) (by decide) h2
  simpa [encodeWord, wordWidth, Nat.add_assoc] using h3

theorem EncodeFits.fadeTick (ledOk : Bool) : EncodeFits.Statement (.fadeTick ledOk) := by
  intro c _
  cases ledOk <;> simp [encodeWord, wordWidth]

theorem EncodeFits.stopReceive : EncodeFits.Statement .stopReceive := by
  intro c _
  simp [encodeWord, wordWidth]

theorem EncodeFits.txTick : EncodeFits.Statement .txTick := by
  intro c _
  simp [encodeWord, wordWidth]

theorem EncodeFits.rxRise : EncodeFits.Statement .rxRise := by
  intro c _
  simp [encodeWord, wordWidth]

theorem EncodeFits.rxTick : EncodeFits.Statement .rxTick := by
  intro c _
  simp [encodeWord, wordWidth]

theorem EncodeFits.fadeSetup : EncodeFits.Statement .fadeSetup := by
  intro c _
  simp [encodeWord, wordWidth]

theorem EncodeFits.reset : EncodeFits.Statement .reset := by
  intro c _
  simp [encodeWord, wordWidth]

theorem EncodeFits.unassigned0 : EncodeFits.Statement .unassigned0 := by
  intro c _
  simp [encodeWord, wordWidth]

theorem EncodeFits.unassignedA : EncodeFits.Statement .unassignedA := by
  intro c _
  simp [encodeWord, wordWidth]

theorem EncodeFits.unassignedB : EncodeFits.Statement .unassignedB := by
  intro c _
  simp [encodeWord, wordWidth]

theorem EncodeFits.unassignedC : EncodeFits.Statement .unassignedC := by
  intro c _
  simp [encodeWord, wordWidth]

theorem EncodeFits.unassignedD : EncodeFits.Statement .unassignedD := by
  intro c _
  simp [encodeWord, wordWidth]

theorem EncodeFits.unassignedE : EncodeFits.Statement .unassignedE := by
  intro c _
  simp [encodeWord, wordWidth]

theorem EncodeFits.dataBit0 : EncodeFits.Statement .dataBit0 := by
  intro c _
  simp [encodeWord, wordWidth]

theorem EncodeFits.dataBit1 : EncodeFits.Statement .dataBit1 := by
  intro c _
  simp [encodeWord, wordWidth]

theorem EncodeFits.syncPair : EncodeFits.Statement .syncPair := by
  intro c _
  simp [encodeWord, wordWidth]

theorem EncodeFits.stopHalfbit : EncodeFits.Statement .stopHalfbit := by
  intro c _
  simp [encodeWord, wordWidth]

theorem EncodeFits.dec0 : EncodeFits.Statement .dec0 := by
  intro c _
  simp [encodeWord, wordWidth]

theorem EncodeFits.dec1 : EncodeFits.Statement .dec1 := by
  intro c _
  simp [encodeWord, wordWidth]

theorem EncodeFits.dec2 : EncodeFits.Statement .dec2 := by
  intro c _
  simp [encodeWord, wordWidth]

theorem EncodeFits.dec3 : EncodeFits.Statement .dec3 := by
  intro c _
  simp [encodeWord, wordWidth]

theorem EncodeFits.dec4 : EncodeFits.Statement .dec4 := by
  intro c _
  simp [encodeWord, wordWidth]

theorem EncodeFits.dec5 : EncodeFits.Statement .dec5 := by
  intro c _
  simp [encodeWord, wordWidth]

theorem EncodeFits.dec6 : EncodeFits.Statement .dec6 := by
  intro c _
  simp [encodeWord, wordWidth]

theorem EncodeFits.dec7 : EncodeFits.Statement .dec7 := by
  intro c _
  simp [encodeWord, wordWidth]

end Sys2Proof.Laws
end

