-- ==== Sys2Proof/Tests/Slice0.lean ====
section
/-! SUPPORT. The model's own tests. Expected values are the spec's: worked examples of the rules and the vectors of
its test-vector file, each named in a docstring. Then, for every statement with hypotheses, a state and operands that
meet them. -/

namespace Sys2Proof.Tests

open Sys2Proof Sys2Proof.Machine

/-- What a next state shows; nothing where the machine stops. -/
def got {α : Type} (o : Host.Outcome State Fault Refusal) (f : State → α) : Option α :=
  match o with
  | .next t => some (f t)
  | _ => none

/-- Why the machine refuses. -/
def refusal (o : Host.Outcome State Fault Refusal) : Option Refusal :=
  match o with
  | .refused r => some r
  | _ => none

/-- Why the machine faults. -/
def faulted (o : Host.Outcome State Fault Refusal) : Option Fault :=
  match o with
  | .fault r => some r
  | _ => none

/-- What a word decodes to under the widths of the spec's programs. -/
def word (sp : Space) (w : Nat) : Option Instr := (decodeWord Config.start sp w).toOption

/-- A state with the given receive registers. -/
def withRx (r : Rx) : State := { State.reset with rx := r }

/-- A state with the given transmit registers. -/
def withTx (t : Tx) : State := { State.reset with tx := t }

/-- Every parameter register is loaded. -/
def allLoaded : Loaded := ⟨true, true, true, true, true, true⟩

/-- A state with the given fade registers and the linear curve, which the host has loaded. -/
def withFade (f : Fade) : State :=
  { State.reset with fade := { f with curveSel := .linear }, loaded := allLoaded }

/-- A receiver in the data phase of a two-byte frame for task 9. -/
def inData : Rx :=
  { rearm 2 9 Rx.reset with rxPhase := .data, rxSyncCnt := 2, rxEdgeSeen := true }

/-- A receiver in the stop phase, with one byte received for task 9. -/
def inStop : Rx :=
  { rearm 1 9 Rx.reset with
    rxPhase := .stop, rxBuf := [(0, 0xA5)], rxByte := 1, rxRemain := 0, rxSyncCnt := 2, rxEdgeSeen := true }

/-- A transmitter that sends one byte for task 7. -/
def sending : Tx := armTransmit 7 [0xA5] Tx.reset

/-- The ramp of the worked example of R174: from 0 to 128 with `fadeTime = 1`. -/
def ramp : Fade :=
  { Fade.reset with
    requestedLevel := 128, fadeTime := 1, fadePeriod := 707107, fadeIncrement := 5524, fadeRunning := true }

/-- A request for a level, from 0, with `fadeTime = 1`. -/
def request (v : Level) : Fade :=
  { Fade.reset with requestedLevel := v, fadeTime := 1, outputChangeRequested := true }

/-- A parameter set with half-bits of four capture clocks, so that a line symbol is a few clocks. -/
def quick : Config :=
  { Config.start with
    durW := 5
    codec := { nsync := 2, nstop := 1, halfNom := 4, halfMin := 3, halfMax := 5, fullMin := 7, fullMax := 9 } }

/-- An idle line under the quick parameters, and the given receive registers. -/
def onLine (r : Rx) : State := { State.reset with cfg := quick, rx := r, frontEnd := FrontEnd.reset quick }

/-! ## Well-formedness, decoding, the parameters -/

/-- Each check refuses an ill-formed term (R87): `len` too wide for 3 bits, `task` for 4, a duration for 16. -/
theorem test_wellFormed_refuses :
    (Instr.transmit 0 [0, 0, 0, 0, 0, 0, 0, 0]).wellFormed Config.start = false
    ∧ (Instr.transmit 16 [0]).wellFormed Config.start = false
    ∧ (Instr.receive 8 0).wellFormed Config.start = false ∧ (Instr.receive 1 16).wellFormed Config.start = false
    ∧ (Instr.rxSample 65536 0).wellFormed Config.start = false
    ∧ (Instr.rxSample 0 65536).wellFormed Config.start = false := by decide

/-- The words of section 4 of the test vectors, every operation once. -/
theorem test_decode_operations :
    word .operation 0x7FC91 = some (.transmit 9 [0xFF]) ∧ word .operation 0x492 = some (.receive 1 9)
    ∧ word .operation 0x3 = some .stopReceive ∧ word .operation 0x4 = some .txTick
    ∧ word .operation 0x5 = some .rxRise ∧ word .operation 0x1A0FFFF6 = some (.rxSample 65535 416)
    ∧ word .operation 0x7 = some .rxTick ∧ word .operation 0x8 = some .fadeSetup
    ∧ word .operation 0x09 = some (.fadeTick false) ∧ word .operation 0xF = some .reset := by decide

/-- The unassigned codes of R97. -/
theorem test_decode_unassigned :
    word .operation 0x0 = some .unassigned0 ∧ word .operation 0xA = some .unassignedA
    ∧ word .operation 0xB = some .unassignedB ∧ word .operation 0xC = some .unassignedC
    ∧ word .operation 0xD = some .unassignedD ∧ word .operation 0xE = some .unassignedE := by decide

/-- The line symbols of R81 to R83, the first half-bit the more significant. -/
theorem test_decode_symbols :
    word .dataField 0b01 = some .dataBit0 ∧ word .dataField 0b10 = some .dataBit1
    ∧ word .syncField 0b10 = some .syncPair ∧ word .stopField 0b0 = some .stopHalfbit
    ∧ word .dataField 0b11 = none ∧ word .syncField 0b01 = none := by decide

/-- The indices of R94. -/
theorem test_decode_indices :
    word .sampleIndex 0b000 = some .dec0 ∧ word .sampleIndex 0b001 = some .dec1
    ∧ word .sampleIndex 0b010 = some .dec2 ∧ word .sampleIndex 0b011 = some .dec3
    ∧ word .sampleIndex 0b100 = some .dec4 ∧ word .sampleIndex 0b101 = some .dec5
    ∧ word .sampleIndex 0b110 = some .dec6 ∧ word .sampleIndex 0b111 = some .dec7 := by decide

/-- The host's table bits decode: `RESET` and `FADE_TICK 1` (section 4 of the test vectors). -/
theorem test_decodeTableWord :
    decodeTableWord 8 0xF = some .reset ∧ decodeTableWord 8 0x19 = some (.fadeTick true) := by decide

/-- R10: the constants of P-1M follow from its parameters. -/
theorem test_calibrate : calibrate ⟨2, 4, 1000000, 2400, 10⟩ = CodecRegs.p1m := by decide

/-- Section 2.2 of the test vectors: the second set of constants, and a set that is not well-formed. -/
theorem test_calibrate_second :
    calibrate ⟨2, 4, 8000000, 2400, 20⟩ = ⟨2, 4, 3333, 2667, 3999, 5333, 7999⟩
    ∧ paramsWellFormed ⟨2, 4, 8000000, 2400, 20⟩ = true
    ∧ paramsWellFormed ⟨2, 4, 1000000, 2400, 34⟩ = false := by decide

/-- Section 2.2 of the test vectors: `Classify`. -/
theorem test_classify :
    ([0, 374, 375, 457, 458, 748, 749, 915, 916, 65535].map (classify CodecRegs.p1m))
      = [.invalid, .invalid, .half, .half, .invalid, .invalid, .full, .full, .invalid, .invalid] := by decide

/-- R86: `Frame([0xA5])`. -/
theorem test_frame :
    (frame CodecRegs.p1m [0xA5]).map Bool.toNat
      = [1, 0, 1, 0, 0, 1, 1, 0, 0, 1, 0, 1, 1, 0, 0, 1, 1, 0, 0, 0, 0, 0] := by decide

/-- R91: the events of `Frame([0xA5])` at ideal timing, up to the first tick of the idle line. -/
theorem test_capture :
    capture CodecRegs.p1m (pairUp (idealRuns CodecRegs.p1m [0xA5])).1 832 65535 1
      = [.rise, .sample 65535 416, .rise, .sample 416 416, .tick, .rise, .tick, .sample 832 832, .tick, .rise,
         .sample 832 416, .rise, .tick, .sample 416 832, .tick, .rise, .tick, .sample 832 832, .tick] := by decide

/-- R88: the record of a delivered frame, `{0x0B, 0x80, RecvDone, 9}` with a 4-bit handle, and a push record
`{lampFailure 0, lampOn 1, outLevel 0x80, outCurve 1}`. -/
theorem test_recordWords :
    eventWord Config.start ⟨9, .recvDone, [0x0B, 0x80]⟩ = 0b00001011_10000000_00_1001
    ∧ eventWord Config.start ⟨7, .xmitDone, []⟩ = 0b11_0111
    ∧ pushWord Config.start ⟨.linear, 0x80, true, false⟩ = 0b0_1_10000000_1 := by decide

/-- P1 of the test vectors: `SEND_FRAME [0x0B, 0x80]` is 39 events. -/
theorem test_sendFrame : (sendFrame Config.start [0x0B, 0x80]).length = 39 := by decide

/-! ## One step of each instruction -/

/-- R112: the worked example. -/
theorem test_transmit_arms :
    got (exec (.transmit 7 [0xA5]) State.reset) (fun t => (t.tx.txBuf, t.tx.txLen, t.tx.txByte, t.tx.txBit, t.tx.txCnt))
      = some ([(0, 0xA5)], 1, 0, 7, 0)
    ∧ got (exec (.transmit 7 [0xA5]) State.reset) (fun t => (t.tx.txTask, t.tx.txPhase, t.tx.txLine))
      = some (7, .syncFirstHalf, false) := by decide

/-- P3: refused while the receiver is armed. -/
theorem test_transmit_refused :
    got (exec (.transmit 3 [0x55]) (withRx (rearm 2 9 Rx.reset))) (fun t => (t.tx.txPhase, t.tx.txBuf, t.evQ.length))
      = some (.done, [], 0) := by decide

/-- R118: the worked example, second tick of bit 7. -/
theorem test_txTick_complement :
    got (exec .txTick (withTx { sending with txPhase := .dataSecondHalf, txLine := true }))
      (fun t => (t.tx.txLine, t.tx.txBit, t.tx.txPhase)) = some (false, 6, .dataFirstHalf) := by decide

/-- R129: tick 23 completes. -/
theorem test_txTick_completes :
    got (exec .txTick (withTx { sending with txPhase := .stop, txByte := 1, txCnt := 4 }))
      (fun t => (t.tx.txPhase, t.tx.txCnt, t.evQ)) = some (.done, 4, [⟨7, .xmitDone, []⟩]) := by decide

/-- R134: the worked example. -/
theorem test_receive_arms :
    got (exec (.receive 2 9) State.reset)
      (fun t => (t.rx.rxLen, t.rx.rxRemain, t.rx.rxByte, t.rx.rxPrev, t.rx.rxPhase, t.rx.rxTask))
      = some (2, 2, 0, true, .sync, 9) := by decide

/-- Section 2.4: `RECEIVE 5, 1` is refused with `NMAX = 4`, and `rxLen` stays 2. -/
theorem test_receive_refused :
    got (exec (.receive 5 1) (withRx (rearm 2 9 Rx.reset))) (fun t => (t.rx.rxLen, t.rx.rxTask)) = some (2, 9) := by
  decide

/-- R138: the worked example, five data bits in. -/
theorem test_stopReceive :
    got (exec .stopReceive (withRx { inData with rxBitCnt := 5 })) (fun t => (t.rx.rxPhase, t.rx.rxBitCnt, t.evQ))
      = some (.done, 5, []) := by decide

/-- R142: the worked example. -/
theorem test_rxRise_announces :
    got (exec .rxRise (withRx (rearm 2 9 Rx.reset))) (fun t => (t.rx.rxEdgeSeen, t.evQ))
      = some (true, [⟨9, .recvEdge, []⟩]) := by decide

/-- R210 X6: an edge in the stop phase. -/
theorem test_rxRise_in_stop :
    got (exec .rxRise (withRx inStop)) (fun t => (t.rx.rxPhase, t.rx.rxCause, t.evQ))
      = some (.done, .frameTimingError, [⟨9, .recvError, []⟩]) := by decide

/-- R144: the worked example. -/
theorem test_rxSample_emits_two :
    got (exec (.rxSample 832 832) (withRx { inData with rxShift := 0b00000101, rxBitCnt := 3 }))
      (fun t => (t.rx.rxShift, t.rx.rxBitCnt, t.rx.rxPrev)) = some (0b00010101, 5, true) := by decide

/-- R166 (v): the first sample, whose off duration is ignored. -/
theorem test_rxSample_first :
    got (exec (.rxSample 65535 416) (withRx (rearm 1 9 Rx.reset))) (fun t => (t.rx.rxPhase, t.rx.rxSyncCnt, t.evQ))
      = some (.data, 2, [⟨9, .recvEdge, []⟩]) := by decide

/-- R150: the worked example. -/
theorem test_rxTick_timeout :
    got (exec .rxTick (withRx { inData with rxMiss := 3 })) (fun t => (t.rx.rxMiss, t.rx.rxCause, t.rx.rxPhase, t.evQ))
      = some (4, .frameTimeoutError, .done, [⟨9, .recvError, []⟩]) := by decide

/-- R168: the fourth window of the stop phase delivers the frame. -/
theorem test_rxTick_delivers :
    got (exec .rxTick (withRx { inStop with rxStopCnt := 3 })) (fun t => (t.rx.rxStopCnt, t.rx.rxPhase, t.evQ))
      = some (4, .done, [⟨9, .recvDone, [0xA5]⟩]) := by decide

/-- R174: the worked example. -/
theorem test_fadeSetup_ramp :
    got (exec .fadeSetup (withFade (request 128)))
      (fun t => (t.fade.fadeMode, t.fade.fadeDirection, t.fade.fadePeriod, t.fade.fadeIncrement, t.fade.fadeRunning))
      = some (.time, .up, 707107, 5524, true) := by decide

/-- R198 (vi): a request of 255 is clamped; with no period the change is immediate (R180). -/
theorem test_fadeSetup_clamps :
    got (exec .fadeSetup (withFade { request 255 with fadeTime := 0 }))
      (fun t => (t.fade.requestedLevel, t.fade.limitError, t.fade.actualLevel, t.fade.fadeRunning))
      = some (254, true, 254, false) := by decide

/-- U2: a setup with a request is refused while one parameter is not loaded, and runs without a request (R184). -/
theorem test_fadeSetup_not_loaded :
    refusal (exec .fadeSetup { withFade (request 128) with loaded := { allLoaded with curveSel := false } })
      = some .parametersNotLoaded
    ∧ got (exec .fadeSetup State.reset) (fun t => t.fade.fadeRunning) = some false := by decide

/-- U6, R188: with `minLevel = 0` and an increment of 0 a ramp from 0 runs straight to its target. -/
theorem test_fadeTick_no_limit :
    got (exec (.fadeTick true) (withFade { ramp with minLevel := 0, fadeIncrement := 0 }))
      (fun t => (t.fade.actualLevel, t.fade.fadeRunning)) = some (128, false) := by decide

/-- R186: tick 6 of the worked example. -/
theorem test_fadeTick_steps :
    got (exec (.fadeTick true) (withFade { ramp with fadeCounter := 5000 }))
      (fun t => (t.fade.actualLevel, t.fade.fadeCounter, t.fade.lampOn, t.fade.outLevel, t.pushes.length))
      = some (1, 476, true, 1, 1) := by decide

/-- R186: tick 708 of the worked example, with a failed lamp (R198 (ix)). -/
theorem test_fadeTick_ends :
    got (exec (.fadeTick false) (withFade { ramp with actualLevel := 127, fadeCounter := 5452 }))
      (fun t => (t.fade.actualLevel, t.fade.fadeRunning, t.fade.fadeCounter, t.fade.lampOn, t.fade.lampFailure))
      = some (128, false, 0, false, true) := by decide

/-- Section 2.10: `RESET` after tick 7 of a transmission. -/
theorem test_reset :
    got (exec .reset (withTx { sending with txPhase := .dataSecondHalf, txLine := true }))
      (fun t => (t.tx.txPhase, t.tx.txLine, t.tx.txBit, t.evQ)) = some (.done, false, 7, []) := by decide

/-- R97: an unassigned code is refused. -/
theorem test_unassigned :
    refusal (exec .unassigned0 State.reset) = some (.illegalOperation 0)
    ∧ refusal (exec .unassignedA State.reset) = some (.illegalOperation 10)
    ∧ refusal (exec .unassignedB State.reset) = some (.illegalOperation 11)
    ∧ refusal (exec .unassignedC State.reset) = some (.illegalOperation 12)
    ∧ refusal (exec .unassignedD State.reset) = some (.illegalOperation 13)
    ∧ refusal (exec .unassignedE State.reset) = some (.illegalOperation 14) := by decide

/-- R82, R90, R140: a sync pair on an idle line is the sync field of a frame. -/
theorem test_syncPair :
    got (exec .syncPair (onLine (rearm 2 9 Rx.reset))) (fun t => (t.rx.rxPhase, t.rx.rxSyncCnt, t.evQ))
      = some (.data, 2, [⟨9, .recvEdge, []⟩]) := by decide

/-- The line after a sync pair, or after a bit 1: off for one half-bit, `Half` behind it. -/
def midCell (r : Rx) : State :=
  { onLine r with frontEnd := { level := false, run := 3, off := 4, window := 3 } }

/-- R81, R94: a bit 1 after a sync pair is `(1, Half, Half)`, which emits 1. -/
theorem test_dataBit1 :
    got (exec .dataBit1 (midCell inData)) (fun t => (t.rx.rxShift, t.rx.rxBitCnt, t.rx.rxPrev))
      = some (1, 1, true) := by decide

/-- R81, R90: a bit 0 after a sync pair ends on; its off run is `Full`, and no sample has ended yet. -/
theorem test_dataBit0 :
    got (exec .dataBit0 (midCell inData)) (fun t => (t.rx.rxBitCnt, t.rx.rxPhase, t.frontEnd.level, t.frontEnd.off))
      = some (0, .data, true, 8) := by decide

/-- R83, R154: a stop half-bit after the window timer's start is one idle window; with `NSTOP = 1` it delivers. -/
theorem test_stopHalfbit :
    got (exec .stopHalfbit (midCell inStop)) (fun t => (t.rx.rxPhase, t.evQ))
      = some (.done, [⟨9, .recvDone, [0xA5]⟩]) := by decide

/-- Section 2.3 of the test vectors: bits pushed and the new `rxPrev` of each entry that emits. -/
theorem test_dec_emits :
    ([Instr.dec0, .dec1, .dec4, .dec6, .dec7].map fun i =>
      got (exec i (withRx inData)) fun t => (t.rx.rxShift, t.rx.rxBitCnt, t.rx.rxPrev))
      = [some (0, 1, false), some (1, 2, true), some (1, 1, true), some (0, 1, false), some (1, 2, true)] := by decide

/-- Section 2.3 of the test vectors: the entries that abort. -/
theorem test_dec_errors :
    ([Instr.dec2, .dec3, .dec5].map fun i =>
      got (exec i (withRx inData)) fun t => (t.rx.rxPhase, t.rx.rxCause, t.rx.rxPrev))
      = List.replicate 3 (some (.done, .frameTimingError, true)) := by decide

/-- `RESET` placed for the next step is what the step runs. -/
theorem test_withFetchWord :
    got (step (({ State.reset with evQ := [⟨1, .recvEdge, []⟩] } : State).withFetchWord 8 0xF)) (fun t => t.evQ)
      = some [] := by decide

/-! ## Hypotheses that something meets

Each theorem names the statement whose hypotheses it shows met. -/

/-- A state with something in progress everywhere: a byte being sent, a ramp running, a record waiting and the half-bit
tick arriving. -/
def busy : State :=
  { State.reset with
    tx := { sending with txPhase := .dataFirstHalf }
    fade := ramp
    evQ := [⟨15, .recvDone, [1, 2, 3, 4]⟩]
    inputs := [.word .operation [0x4]] }

/-- A state that receives and fades, with the last tick of a timeout arriving. -/
def hearing : State :=
  { State.reset with rx := { inData with rxMiss := 3 }, fade := ramp, inputs := [.word .operation [0x7]] }

/-- `busy` keeps every invariant. -/
theorem test_busy_sane : Sane busy where
  config := by decide +kernel
  buffers := by unfold BuffersCanonical; decide
  transmitter := by unfold TxSane; decide
  receiver := by unfold RxSane; decide
  fade := by unfold FadeSane; decide
  halfDuplex := by unfold HalfDuplex; decide
  queue := by unfold QueueSane; decide

/-- `hearing` keeps every invariant. -/
theorem test_hearing_sane : Sane hearing where
  config := by decide +kernel
  buffers := by unfold BuffersCanonical; decide
  transmitter := by unfold TxSane; decide
  receiver := by unfold RxSane; decide
  fade := by unfold FadeSane; decide
  halfDuplex := by unfold HalfDuplex; decide
  queue := by unfold QueueSane; decide

/-- EveryStepKeepsSane, SaneStatesNeverFault, BuffersStayCanonical, TransmitterStaysSane, FadeEngineStaysSane,
HalfDuplexIsKept. -/
theorem test_hyp_invariants_busy : Sane busy ∧ ∃ t, step busy = .next t := ⟨test_busy_sane, ⟨_, rfl⟩⟩

/-- ReceiverStaysSane, EveryStepKeepsSane. -/
theorem test_hyp_invariants_hearing : Sane hearing ∧ ∃ t, step hearing = .next t := ⟨test_hearing_sane, ⟨_, rfl⟩⟩

/-- DecodeEncodeAgree: operands at the greatest value of their fields. -/
theorem test_hyp_wellFormed :
    (Instr.transmit 15 [1, 2, 3, 4, 5, 6, 255]).wellFormed Config.start = true
    ∧ (Instr.receive 7 15).wellFormed Config.start = true
    ∧ (Instr.rxSample 65535 65535).wellFormed Config.start = true ∧ Instr.dec7.wellFormed Config.start = true := by
  decide

/-- DecodedWordsAreEncodedWords, StepRunsTheDecodedInstruction. -/
theorem test_hyp_decodes :
    (decode Config.start .operation [0xA1, 0x5B, 0x00, 0x04]).toOption = some (.transmit 7 [0x0B, 0x80])
    ∧ busy.inputs = .word .operation [0x4] :: [] ∧ (decode busy.cfg .operation [0x4]).toOption = some .txTick
    ∧ (decode State.reset.cfg .operation (tableBytes 8 0xF)).toOption = some .reset := by decide

/-- UnassignedCodesRefused, second clause, at both ends of each range. -/
theorem test_hyp_unassigned :
    natOfBytes [0x00] % 16 = 0 ∧ 10 ≤ natOfBytes [0x0A] % 16 ∧ natOfBytes [0xFE, 0x01] % 16 ≤ 14 := by decide

/-- A state at which one input arrives. -/
def arriving (x : Input) : State := { State.reset with inputs := [x], evQ := [⟨9, .recvEdge, []⟩] }

/-- HostActionsStep, clause by clause: each write at the greatest value of its register. -/
theorem test_hyp_hostActions :
    State.reset.inputs = []
    ∧ (∀ w ∈ [HostWrite.requestedLevel 255, .minLevel 255, .maxLevel 255, .physicalMinLevel 255, .fadeTime 15,
          .fadeRate 15, .fastFadeTime 255, .curveSel .linear, .outputChangeRequested true, .fadeRateRequested true],
        (arriving (.hostWrite w)).inputs = .hostWrite w :: [])
    ∧ (arriving .hostTake).inputs = .hostTake :: [] ∧ (arriving (.hostFlush 9)).inputs = .hostFlush 9 :: [] := by
  decide

/-- StepRunsTheDecodedInstruction, third clause: a clock with an edge, and one with nothing to emit. -/
theorem test_hyp_clock :
    (arriving (.lineClock true)).inputs = .lineClock true :: []
    ∧ (clockFrontEnd Config.start true (FrontEnd.reset Config.start)).2 = some .rise
    ∧ (clockFrontEnd Config.start false (FrontEnd.reset Config.start)).2 = none := by decide

/-- SameClockOrder, every input of a clock at once. -/
theorem test_hyp_sameClock :
    let x : SameClock := ⟨false, true, some (.fall 416 416), true, [.hostTake], some true⟩
    x.rst = false ∧ x.txTick = true ∧ x.edge = some (.fall 416 416) ∧ x.rxTick = true ∧ x.fadeTick = some true := by
  decide

/-- P-1M with another tolerance, as it arrives: well-formed at 33 percent, not at 34 (section 2.2 of the test
vectors). -/
def recalibrated (tol : Nat) : Input := .reconfigure (calibrate ⟨2, 4, 1000000, 2400, tol⟩) FadeParams.offered

/-- ReconfigureOnlyWhenIdle, clause by clause: a well-formed set and one just past the bound of R9 at an idle machine,
and a change at a busy one. -/
theorem test_hyp_reconfigure :
    (arriving (recalibrated 33)).inputs = recalibrated 33 :: []
    ∧ ((arriving (recalibrated 33)).tx.txPhase = .done ∧ (arriving (recalibrated 33)).rx.rxPhase = .done
      ∧ (arriving (recalibrated 33)).fade.fadeRunning = false)
    ∧ Config.wf { Config.start with codec := calibrate ⟨2, 4, 1000000, 2400, 33⟩, fade := FadeParams.offered } = true
    ∧ Config.wf { Config.start with codec := calibrate ⟨2, 4, 1000000, 2400, 34⟩, fade := FadeParams.offered } = false
    ∧ ({ busy with inputs := [recalibrated 33] } : State).inputs = recalibrated 33 :: [] ∧ busy.tx.txPhase ≠ .done := by
  decide +kernel

/-- TransmitAccepted, TicksDriveTheFrame, TransmissionTakesItsTicks, with the shortest and the longest frame and the
first and the last half-bit. -/
theorem test_hyp_transmit :
    State.reset.cfg.codec.wf = true ∧ Memory.wf State.reset.cfg.nmax State.reset.tx.txBuf = true
    ∧ State.reset.tx.txPhase = .done ∧ State.reset.rx.rxPhase = .done
    ∧ 1 ≤ ([0xA5] : List Byte).length ∧ ([1, 2, 3, 4] : List Byte).length ≤ State.reset.cfg.nmax
    ∧ 70 ≤ State.reset.cfg.codec.nsync + 16 * ([1, 2, 3, 4] : List Byte).length + State.reset.cfg.codec.nstop := by
  decide

/-- RefusedCommandsChangeNothing, every disjunct. -/
theorem test_hyp_refused :
    busy.tx.txPhase ≠ .done ∧ hearing.rx.rxPhase ≠ .done ∧ ([] : List Byte).length = 0
    ∧ State.reset.cfg.nmax < ([1, 2, 3, 4, 5] : List Byte).length ∧ State.reset.cfg.nmax < 5 := by decide

/-- TxTickOutsideData and TxTickInData, clause by clause: `NSYNC = 2`, `NSTOP = 4`, the last index of the buffer. -/
theorem test_hyp_txTick :
    sending.txPhase = .syncFirstHalf ∧ 2 ≤ ({ sending with txCnt := 1 } : Tx).txCnt + 1
    ∧ ({ sending with txCnt := 0 } : Tx).txCnt + 1 < 2 ∧ ({ sending with txPhase := .stop, txCnt := 3 } : Tx).txCnt < 4
    ∧ 4 ≤ ({ sending with txPhase := .stop, txCnt := 4 } : Tx).txCnt ∧ sending.txBit ≠ 0
    ∧ ({ sending with txByte := 3, txLen := 4, txBit := 0 } : Tx).txByte < State.reset.cfg.nmax
    ∧ ({ sending with txByte := 3, txLen := 4, txBit := 0 } : Tx).txByte + 1 = 4
    ∧ ({ sending with txByte := 2, txLen := 4, txBit := 0 } : Tx).txByte + 1 ≠ 4 := by decide

/-- ReceiveArms, with the least and the greatest length. -/
theorem test_hyp_receive : State.reset.tx.txPhase = .done ∧ 1 ≤ 1 ∧ 4 ≤ State.reset.cfg.nmax := by decide

/-- RiseByPhase and RxTickByPhase, clause by clause. -/
theorem test_hyp_phases :
    Rx.reset.rxPhase = .done ∧ inStop.rxPhase = .stop ∧ (rearm 2 9 Rx.reset).rxPhase = .sync
    ∧ (rearm 2 9 Rx.reset).rxEdgeSeen = false ∧ inData.rxPhase = .data ∧ inData.rxEdgeSeen = true ∧ inData.rxMiss ≠ 3
    ∧ hearing.rx.rxMiss = 3 ∧ hearing.rx.rxEdgeSeen = true ∧ inStop.rxStopCnt + 1 ≠ State.reset.cfg.codec.nstop
    ∧ ({ inStop with rxStopCnt := 3 } : Rx).rxStopCnt + 1 = State.reset.cfg.codec.nstop
    ∧ inStop.rxLen ≤ State.reset.cfg.nmax := by decide

/-- SampleInSync, clause by clause, at the bounds of the windows: `NSYNC` 4, then 2, then a sample outside. -/
theorem test_hyp_sampleInSync :
    (rearm 2 9 Rx.reset).rxPhase = .sync ∧ (rearm 2 9 Rx.reset).rxSyncCnt = 0
    ∧ classify CodecRegs.p1m 375 = .half ∧ classify CodecRegs.p1m 457 = .half
    ∧ (rearm 2 9 Rx.reset).rxSyncCnt + 2 < ({ CodecRegs.p1m with nsync := 4 } : CodecRegs).nsync
    ∧ CodecRegs.p1m.nsync ≤ (rearm 2 9 Rx.reset).rxSyncCnt + 2
    ∧ ¬ (classify CodecRegs.p1m 458 = .half ∧ ((rearm 2 9 Rx.reset).rxSyncCnt = 0 ∨ classify CodecRegs.p1m 416 = .half))
    := by decide

/-- SampleWhenDoneOrStopped, SampleEmitsOneBit, SampleEmitsTwoBits, SampleAborts, DecEntriesComplete: every class at a
bound of its window, with the last index of the buffer. -/
theorem test_hyp_sampleInData :
    Rx.reset.rxPhase = .done ∧ inStop.rxPhase = .stop ∧ inData.rxPhase = .data
    ∧ ({ inData with rxLen := 4, rxRemain := 1, rxByte := 3 } : Rx).rxByte < State.reset.cfg.nmax
    ∧ inData.rxPrev = true ∧ classify CodecRegs.p1m 457 = .half ∧ classify CodecRegs.p1m 749 = .full
    ∧ classify CodecRegs.p1m 915 = .full ∧ classify CodecRegs.p1m 916 = .invalid
    ∧ ({ inData with rxPrev := false } : Rx).rxPrev = false := by decide

/-- SampleEmitsTwoBits and SampleAborts: their conditions on the classes. -/
theorem test_hyp_emits :
    EmitsTwo inData.rxPrev (classify CodecRegs.p1m 749) (classify CodecRegs.p1m 915)
    ∧ EmitsTwo false (classify CodecRegs.p1m 375) (classify CodecRegs.p1m 915)
    ∧ EmitsNone inData.rxPrev (classify CodecRegs.p1m 916) (classify CodecRegs.p1m 416)
    ∧ EmitsNone inData.rxPrev (classify CodecRegs.p1m 457) (classify CodecRegs.p1m 749) := by
  unfold EmitsTwo EmitsNone
  decide

/-- ExceptionsAreComplete: a sane receiver with a timeout, with a timing error, and with neither. -/
theorem test_hyp_exceptions :
    RxSane hearing.cfg hearing.rx ∧ RaisesTimeout .rxTick hearing ∧ RaisesTiming (.rxSample 416 749) hearing
    ∧ ¬ RaisesTiming .rxTick hearing ∧ ¬ RaisesTimeout .rxRise hearing ∧ Instr.isCodecOp .rxTick = true
    ∧ (∃ t, exec .rxTick hearing = .next t) ∧ (∃ t, exec (.rxSample 416 749) hearing = .next t)
    ∧ ∃ t, exec .rxRise hearing = .next t := by
  refine ⟨test_hearing_sane.receiver, ?_, ?_, ?_, ?_, by decide, ⟨_, rfl⟩, ⟨_, rfl⟩, ⟨_, rfl⟩⟩
  · unfold RaisesTimeout; decide
  · unfold RaisesTiming EmitsNone EmitsTwo; decide
  · unfold RaisesTiming; decide
  · unfold RaisesTimeout; decide

/-- A receiver armed for two bytes keeps its invariants. -/
theorem test_armed_sane : RxSane Config.start (rearm 2 9 Rx.reset) := by unfold RxSane; decide

/-- EdgeAnnouncedOnce, QueueOnlyGrows, ReceiverMovesForward: an edge that is announced, one that is not, and an
operation with the flag set. -/
theorem test_hyp_edges :
    (RxSane (withRx (rearm 2 9 Rx.reset)).cfg (withRx (rearm 2 9 Rx.reset)).rx
      ∧ ∃ t, execFrontEvent (.sample 65535 416) (withRx (rearm 2 9 Rx.reset)) = .next t)
    ∧ (RxSane hearing.cfg hearing.rx ∧ ∃ t, execFrontEvent .rise hearing = .next t) ∧ hearing.rx.rxEdgeSeen = true
    ∧ (∃ t, exec .stopReceive hearing = .next t) := 
  ⟨⟨test_armed_sane, ⟨_, rfl⟩⟩, ⟨test_hearing_sane.receiver, ⟨_, rfl⟩⟩, rfl, ⟨_, rfl⟩⟩

/-- DisabledReceiverIgnoresEvents, TransmitterArcs. -/
theorem test_hyp_disabled :
    State.reset.rx.rxPhase = .done ∧ (∃ t, exec .rxTick State.reset = .next t)
    ∧ (∃ t, exec .txTick busy = .next t) ∧ ∃ t, exec (.transmit 7 [0xA5]) State.reset = .next t :=
  ⟨rfl, ⟨_, rfl⟩, ⟨_, rfl⟩, ⟨_, rfl⟩⟩

/-- CodecAndFadeCommute. -/
theorem test_hyp_commute :
    Instr.isCodecOp .txTick = true ∧ Instr.isFadeOp (.fadeTick true) = true
    ∧ (∃ a, exec .txTick busy = .next a) ∧ ∃ b, exec .fadeSetup busy = .next b := ⟨rfl, rfl, ⟨_, rfl⟩, ⟨_, rfl⟩⟩

/-- The runs of `Frame([0xA5])`, as section 2.1 of the test vectors gives them. -/
theorem test_runs :
    runLengths (frame CodecRegs.p1m [0xA5])
      = [(true, 1), (false, 1), (true, 1), (false, 2), (true, 2), (false, 2), (true, 1), (false, 1), (true, 2),
         (false, 2), (true, 2), (false, 5)] := by decide

/-- RoundTrip: `Frame([0xA5])` with runs at the bounds of both windows. -/
theorem test_hyp_roundTrip :
    paramsWellFormed ⟨2, 4, 1000000, 2400, 10⟩ = true
    ∧ State.reset.cfg.codec = calibrate ⟨2, 4, 1000000, 2400, 10⟩
    ∧ Memory.wf State.reset.cfg.nmax State.reset.rx.rxBuf = true ∧ State.reset.tx.txPhase = .done
    ∧ 1 ≤ ([0xA5] : List Byte).length ∧ ([0xA5] : List Byte).length ≤ State.reset.cfg.nmax
    ∧ RunsFit State.reset.cfg.codec (runLengths (frame State.reset.cfg.codec [0xA5]))
        [375, 457, 375, 749, 915, 749, 457, 375, 915, 749, 832] := by
  refine ⟨by decide, by decide, by decide, by decide, by decide, by decide, ?_⟩
  show RunsFit CodecRegs.p1m (runLengths (frame CodecRegs.p1m [0xA5])) _
  rw [test_runs]
  exact ⟨rfl, rfl, rfl, rfl, rfl, rfl, rfl, rfl, rfl, rfl, rfl, rfl⟩

/-- FrontEndIsCapture: runs of one clock and of the greatest duration. -/
theorem test_hyp_frontEnd :
    1 ≤ Config.start.codec.halfNom ∧ (FrontEnd.reset Config.start).level = false ∧ 1 ≤ 1 ∧ 1 ≤ Config.start.durMax
    ∧ ∀ q ∈ [(1, 65535), (65535, 1)], 1 ≤ q.1 ∧ q.1 ≤ Config.start.durMax ∧ 1 ≤ q.2 ∧ q.2 ≤ Config.start.durMax := by
  decide

/-- LineSymbolsAreTheirEvents, LineSymbolsComplete: every symbol, a sane receiver that is armed and one that is not. -/
theorem test_hyp_symbols :
    (Instr.dataBit0 = .dataBit0 ∧ [false, true] = [false, true]) ∧ State.reset.cfg.codec.wf = true
    ∧ RxSane hearing.cfg hearing.rx ∧ RxSane busy.cfg busy.rx ∧ busy.rx.rxPhase = .done :=
  ⟨⟨rfl, rfl⟩, by decide, test_hearing_sane.receiver, test_busy_sane.receiver, rfl⟩

/-- DecEntriesAreSamples: index 7 in the data phase, and index 0 outside it, where the previous bit does not matter. -/
theorem test_hyp_decEntries :
    decIndex true (classify CodecRegs.p1m 749) (classify CodecRegs.p1m 915) = some 7
    ∧ (decodeIndex (7 : BitVec 3).toNat).toOption = some .dec7 ∧ true = (withRx inData).rx.rxPrev
    ∧ decIndex false (classify CodecRegs.p1m 375) (classify CodecRegs.p1m 457) = some 0
    ∧ (decodeIndex (0 : BitVec 3).toNat).toOption = some .dec0 ∧ State.reset.rx.rxPhase ≠ .data := by decide

/-- ClassifyWindows, FrameShape. -/
theorem test_hyp_windows :
    paramsWellFormed ⟨2, 4, 1000000, 2400, 10⟩ = true ∧ CodecRegs.p1m.nsync % 2 = 0 := by decide

/-- SetupWithoutRequest (with nothing loaded, with all but one, and without a request), SetupAtOnce (a distance of 1, a distance of 0, a period of 0), SetupStartsRamp (the shortest
ramp). -/
theorem test_hyp_setup :
    State.reset.fade.outputChangeRequested = false ∧ (request 1).outputChangeRequested = true
    ∧ State.reset.loaded.minLevel = false ∧ ({ allLoaded with curveSel := false } : Loaded).curveSel = false
    ∧ (withFade (request 1)).loaded = ⟨true, true, true, true, true, true⟩
    ∧ dist 1 (request 1).actualLevel 1 = 1 ∧ dist 1 (request 0).actualLevel 0 = 0
    ∧ setupPeriod FadeParams.offered { request 9 with fadeTime := 0 } = 0
    ∧ 2 ≤ dist 1 (request 2).actualLevel 2 ∧ setupPeriod FadeParams.offered (request 2) ≠ 0 := by decide

/-- DistCountsSteps: a target of 0, the lower limit, the greatest level. -/
theorem test_hyp_dist : (1 : Level) ≠ 0 ∧ ((0 : Level) = 0) ∧ (254 : Level) ≤ 254 ∧ (1 : Level) ≤ 255 := by decide

/-- TickInRamp: a level before the target of a ramp, and one that is not. -/
theorem test_hyp_before :
    Before ramp.fadeDirection ramp.requestedLevel ramp.actualLevel
    ∧ ¬ Before ramp.fadeDirection ramp.requestedLevel 128 := by
  show (0 : Level) < 128 ∧ ¬ (128 : Level) < 128
  decide

/-- TickWithoutRamp, TickInRamp, at the greatest counter that does not overflow, with a lower limit and without. -/
theorem test_hyp_tick :
    State.reset.fade.fadeRunning = false ∧ ramp.fadeRunning = true ∧ ramp.minLevel ≠ 0 ∧ ramp.fadeIncrement ≠ 0
    ∧ ({ ramp with minLevel := 0, fadeIncrement := 0 } : Fade).minLevel = 0
    ∧ ({ ramp with fadeCounter := 4294966295 } : Fade).fadeCounter.toNat + FadeParams.offered.tickUs.toNat < 2 ^ 32 := by
  decide

/-- The state of the worked example of R174 before its setup. -/
def beforeRamp : State := withFade (request 128)

/-- FadeTimeRampCompletes, with no tick and with the 708 of the worked example of R186. -/
theorem test_hyp_fadeTime :
    beforeRamp.cfg.wf = true ∧ beforeRamp.fade.minLevel ≠ 0 ∧ beforeRamp.fade.minLevel ≤ beforeRamp.fade.maxLevel
    ∧ beforeRamp.fade.outputChangeRequested = true
    ∧ (∃ u, exec .fadeSetup beforeRamp = .next u ∧ u.fade.fadeRunning = true ∧ u.fade.fadeMode = .time
        ∧ (dist 1 0 u.fade.requestedLevel * u.fade.fadeIncrement.toNat + 1000 - 1) / 1000 = 708)
    ∧ ([] : List Bool).length < 708 ∧ (List.replicate 708 true).length = 708 :=
  ⟨by decide +kernel, by decide, by decide, by decide, ⟨_, rfl, by decide, by decide, by decide⟩, by decide,
    List.length_replicate ..⟩

/-- The third setup of P4: a fade-rate request down from level 10. -/
def beforeRate : State :=
  withFade { request 1 with actualLevel := 10, fadeRate := 7, fadeRateRequested := true }

/-- FadeRateRampCompletes, with no tick and with the 200 of P4. -/
theorem test_hyp_fadeRate :
    beforeRate.cfg.wf = true ∧ beforeRate.fade.minLevel ≠ 0 ∧ beforeRate.fade.minLevel ≤ beforeRate.fade.maxLevel
    ∧ beforeRate.fade.outputChangeRequested = true
    ∧ (∃ u, exec .fadeSetup beforeRate = .next u ∧ u.fade.fadeRunning = true ∧ u.fade.fadeMode = .rate)
    ∧ ([] : List Bool).length < (200000 + 1000 - 1) / 1000
    ∧ (List.replicate 200 true).length = (200000 + 1000 - 1) / 1000 :=
  ⟨by decide +kernel, by decide, by decide, by decide, ⟨_, rfl, by decide, by decide⟩, by decide,
    List.length_replicate ..⟩

/-- LevelNeverForbidden: a running ramp with a clamped target, and its setup from OFF. -/
theorem test_hyp_level :
    TargetClamped busy.fade ∧ busy.fade.fadeRunning = true ∧ busy.fade.minLevel ≤ busy.fade.maxLevel
    ∧ ¬ LevelForbidden busy.fade busy.fade.actualLevel ∧ (∃ t, exec .fadeSetup busy = .next t)
    ∧ ∃ t, exec (.fadeTick true) busy = .next t := by
  refine ⟨?_, by decide, by decide, ?_, ⟨_, rfl⟩, ⟨_, rfl⟩⟩
  · unfold TargetClamped LevelForbidden; decide
  · unfold LevelForbidden; decide

/-- FaultsByName, clause by clause: the first index that does not exist. -/
theorem test_hyp_faults :
    faulted (exec .txTick (withTx { sending with txPhase := .dataFirstHalf, txByte := 4 })) = some (.noSuchIndex 4)
    ∧ faulted (exec .rxTick (withRx { inStop with rxStopCnt := 3, rxLen := 5 })) = some (.noSuchIndex 4)
    ∧ faulted (exec (.rxSample 416 416) (withRx { inData with rxBitCnt := 7, rxByte := 4 })) = some (.noSuchIndex 4) := by
  decide

end Sys2Proof.Tests
end

section
/-! PROOF. What a step does with the arrival it takes: the equations of `step`, `runWord`, `clockLine` and
`reconfigure`, and the statements about the step and the ports (R39, R75, R90, R248). -/

namespace Sys2Proof.Machine

/-! The oldest arrival (log entry 1). -/

theorem step_of_inputs_nil {s : State} (h : s.inputs = []) : step s = .next s := by
  unfold step takeInput
  rw [h]

theorem step_of_inputs_cons {s : State} {x : Input} {rest : List Input} (h : s.inputs = x :: rest) :
    step s = runInput x { s with inputs := rest } := by
  unfold step takeInput
  rw [h]

theorem runWord_of_decode_ok {s : State} {sp : Space} {bytes : List Byte} {i : Instr}
    (h : decode s.cfg sp bytes = .ok i) : runWord sp bytes s = exec i s := by
  unfold runWord
  rw [h]

theorem runWord_of_decode_error {s : State} {sp : Space} {bytes : List Byte} {e : DecodeError}
    (h : decode s.cfg sp bytes = .error e) : runWord sp bytes s = .refused (.badWord e) := by
  unfold runWord
  rw [h]

/-! A capture clock (R39, R90). -/

/-- Each front-end event is executed as the operation it is (R84, R90). -/
theorem execFrontEvent_eq_exec (e : FrontEvent) (s : State) : execFrontEvent e s = exec (frontInstr e) s := by
  cases e <;> rfl

theorem clockLine_of_none {level : Bool} {s : State} (h : (clockFrontEnd s.cfg level s.frontEnd).2 = none) :
    clockLine level s = .next { s with frontEnd := (clockFrontEnd s.cfg level s.frontEnd).1 } := by
  rw [clockLine_eq, h]
  rfl

theorem clockLine_of_some {level : Bool} {s : State} {e : FrontEvent}
    (h : (clockFrontEnd s.cfg level s.frontEnd).2 = some e) :
    clockLine level s = execFrontEvent e { s with frontEnd := (clockFrontEnd s.cfg level s.frontEnd).1 } := by
  unfold clockLine
  dsimp only
  rw [h]

/-! A change of configuration (R75, R248; log entry 21). -/

theorem idle_iff (s : State) :
    idle s = true ↔ s.tx.txPhase = .done ∧ s.rx.rxPhase = .done ∧ s.fade.fadeRunning = false := by
  simp [idle]

theorem reconfigure_of_wf {codec : CodecRegs} {p : FadeParams} {s : State} (hi : idle s = true)
    (hw : (reload codec p s.cfg).wf = true) :
    reconfigure codec p s = .next { s with cfg := reload codec p s.cfg } := by
  simp [reconfigure, hi, hw]

theorem reconfigure_of_illFormed {codec : CodecRegs} {p : FadeParams} {s : State} (hi : idle s = true)
    (hw : (reload codec p s.cfg).wf = false) : reconfigure codec p s = .refused .configurationIllFormed := by
  simp [reconfigure, hi, hw]

theorem reconfigure_of_busy {codec : CodecRegs} {p : FadeParams} {s : State} (hi : idle s = false) :
    reconfigure codec p s = .refused .configurationInUse := by
  simp [reconfigure, hi]

/-- A change of configuration goes on only from an idle machine, and only to a well-formed set. -/
theorem reconfigure_eq_next {codec : CodecRegs} {p : FadeParams} {s t : State} :
    reconfigure codec p s = .next t ↔
      idle s = true ∧ (reload codec p s.cfg).wf = true ∧ t = { s with cfg := reload codec p s.cfg } := by
  rcases hi : idle s
  · simp [reconfigure_of_busy hi]
  · rcases hw : (reload codec p s.cfg).wf
    · simp [reconfigure_of_illFormed hi hw]
    · simp [reconfigure_of_wf hi hw, eq_comm]

/-- Settles O5: the arrival at the head of the queue is run, and running it is exec of what it decodes to or of what the
front end emits. -/
theorem stepRunsTheDecodedInstruction : Obligations.StepRunsTheDecodedInstruction := by
  refine ⟨fun s sp bytes rest i hs hd => ?_, fun s nbits w i hd => ?_,
    fun s level rest hs => ⟨fun hn => ?_, fun e he => ?_⟩⟩
  · rw [step_of_inputs_cons hs]
    exact runWord_of_decode_ok hd
  · rw [step_of_inputs_cons (withFetchWord_inputs s nbits w)]
    exact runWord_of_decode_ok hd
  · rw [step_of_inputs_cons hs]
    exact clockLine_of_none hn
  · rw [step_of_inputs_cons hs, ← execFrontEvent_eq_exec]
    exact clockLine_of_some he

/-- Settles O8, one clause for each branch of `reconfigure`. -/
theorem reconfigureOnlyWhenIdle : Obligations.ReconfigureOnlyWhenIdle := by
  intro s codec p rest hs
  rw [step_of_inputs_cons hs]
  refine ⟨fun htx hrx hf hw => ?_, fun htx hrx hf hw => ?_, fun hbusy => ?_⟩
  · exact reconfigure_of_wf ((idle_iff _).mpr ⟨htx, hrx, hf⟩) hw
  · exact reconfigure_of_illFormed ((idle_iff _).mpr ⟨htx, hrx, hf⟩) hw
  · refine reconfigure_of_busy (Bool.eq_false_iff.mpr fun hidle => ?_)
    obtain ⟨htx, hrx, hf⟩ := (idle_iff _).mp hidle
    rcases hbusy with h | h | h
    · exact h htx
    · exact h hrx
    · exact nomatch hf.symm.trans h

end Sys2Proof.Machine
end

section
/-! PROOF. What it takes for a property of the state to survive every step: it survives the ten operations, a sample with
any action, and what else can arrive at the ports. The line symbols (log entry 5) and the entries of the decode table
(log entry 6) are made of these and need no case of their own. -/

namespace Sys2Proof.Machine

/-- Where a transition goes on, it leads from states with the property to states with the property. -/
def Preserves (P : State → Prop) (f : State → Host.Outcome State Fault Refusal) : Prop :=
  ∀ ⦃s t : State⦄, P s → f s = .next t → P t

/-- The property survives each transition of which every step is made. -/
structure KeptByParts (P : State → Prop) : Prop where
  transmit : ∀ task data, Preserves P (execTransmit task data)
  receive : ∀ len task, Preserves P (execReceive len task)
  stopReceive : Preserves P execStopReceive
  txTick : Preserves P execTxTick
  rxRise : Preserves P execRxRise
  sample : ∀ cOff cOn a, Preserves P (sample cOff cOn a)
  rxTick : Preserves P execRxTick
  fadeSetup : Preserves P execFadeSetup
  fadeTick : ∀ ledOk, Preserves P (execFadeTick ledOk)
  reset : Preserves P execReset
  frontEnd : ∀ s f, P s → P { s with frontEnd := f }
  inputs : ∀ s xs, P s → P { s with inputs := xs }
  hostWrite : ∀ s w, P s → P { s with fade := applyHostWrite w s.fade, loaded := noteLoaded w s.loaded }
  hostTake : ∀ s, P s → P { s with evQ := s.evQ.drop 1 }
  hostFlush : ∀ (s : State) (task : Nat), P s → P { s with evQ := s.evQ.filter fun e => decide (e.task ≠ task) }
  reconfigure : ∀ codec p, Preserves P (reconfigure codec p)

variable {P : State → Prop}

theorem Preserves.next {g : State → State} (h : ∀ s, P s → P (g s)) : Preserves P fun s => .next (g s) := by
  rintro s _ hs ⟨⟩
  exact h s hs

theorem Preserves.andThen {f g : State → Host.Outcome State Fault Refusal} (hf : Preserves P f) (hg : Preserves P g) :
    Preserves P fun s => andThen (f s) g := by
  intro s t hs h
  obtain ⟨u, hu, ht⟩ := andThen_eq_next.mp h
  exact hg (hf hs hu) ht

namespace KeptByParts

theorem execFrontEvent (k : KeptByParts P) (e : FrontEvent) : Preserves P (execFrontEvent e) := by
  cases e with
  | rise => exact k.rxRise
  | sample off on => exact fun _ _ hs h => k.sample _ _ _ hs h
  | tick => exact k.rxTick

theorem clockLine (k : KeptByParts P) (level : Bool) : Preserves P (clockLine level) := by
  intro s t hs h
  rcases he : (clockFrontEnd s.cfg level s.frontEnd).2 with _ | e
  · rw [clockLine_of_none he] at h
    cases h
    exact k.frontEnd s _ hs
  · rw [clockLine_of_some he] at h
    exact k.execFrontEvent e (k.frontEnd s _ hs) h

theorem holdLine (k : KeptByParts P) (level : Bool) : ∀ n, Preserves P (holdLine level n)
  | 0 => Preserves.next fun _ hs => hs
  | n + 1 => (k.clockLine level).andThen (k.holdLine level n)

theorem carryLevels (k : KeptByParts P) : ∀ ls, Preserves P (carryLevels ls)
  | [] => Preserves.next fun _ hs => hs
  | l :: ls => Preserves.andThen (fun _ _ hs h => k.holdLine l _ hs h) (k.carryLevels ls)

theorem exec (k : KeptByParts P) (i : Instr) : Preserves P (exec i) := by
  cases i with
  | transmit task data => exact k.transmit task data
  | receive len task => exact k.receive len task
  | stopReceive => exact k.stopReceive
  | txTick => exact k.txTick
  | rxRise => exact k.rxRise
  | rxSample off on => exact k.execFrontEvent (.sample off on)
  | rxTick => exact k.rxTick
  | fadeSetup => exact k.fadeSetup
  | fadeTick ledOk => exact k.fadeTick ledOk
  | reset => exact k.reset
  | unassigned0 | unassignedA | unassignedB | unassignedC | unassignedD | unassignedE => exact fun _ _ _ h => nomatch h
  | dataBit0 | dataBit1 | syncPair | stopHalfbit => exact k.carryLevels _
  | dec0 | dec1 | dec2 | dec3 | dec4 | dec5 | dec6 | dec7 => exact k.sample _ _ _

theorem runInput (k : KeptByParts P) (x : Input) : Preserves P (runInput x) := by
  cases x with
  | word sp bytes =>
    intro s t hs h
    rcases hd : decode s.cfg sp bytes with e | i
    · exact nomatch (runWord_of_decode_error hd).symm.trans h
    · exact k.exec i hs ((runWord_of_decode_ok hd).symm.trans h)
  | hostWrite w => exact Preserves.next fun s hs => k.hostWrite s w hs
  | hostTake => exact Preserves.next k.hostTake
  | hostFlush task => exact Preserves.next fun s hs => k.hostFlush s task hs
  | reconfigure codec p => exact k.reconfigure codec p
  | lineClock level => exact k.clockLine level

/-- A property that survives the parts survives every step. -/
theorem step (k : KeptByParts P) : Preserves P step := by
  intro s t hs h
  rcases hq : s.inputs with _ | ⟨x, rest⟩
  · rw [step_of_inputs_nil hq] at h
    cases h
    exact hs
  · rw [step_of_inputs_cons hq] at h
    exact k.runInput x (k.inputs s rest hs) h

end KeptByParts

end Sys2Proof.Machine
end

section
/-! PROOF. Every step keeps the buffers in canonical form (R15, R60, R67; log entry 9). Three operations write a buffer:
`TRANSMIT`, whose acceptance bounds the length (R114), the byte packer, which faults outside the buffer, and `RESET`. -/

namespace Sys2Proof.Machine

/-- The canonical form rests on the capacity and the two buffers alone. -/
theorem BuffersCanonical.of_eq {s t : State} (h : BuffersCanonical s) (hn : t.cfg.nmax = s.cfg.nmax)
    (htx : t.tx.txBuf = s.tx.txBuf) (hrx : t.rx.rxBuf = s.rx.rxBuf) : BuffersCanonical t := by
  unfold BuffersCanonical
  rw [hn, htx, hrx]
  exact h

/-! The operations that write no buffer. -/

@[simp] theorem tickTx_txBuf (c : CodecRegs) (t : Tx) : (tickTx c t).txBuf = t.txBuf := by
  rcases h : t.txPhase <;> simp only [tickTx, h]
  case syncSecondHalf | stop => split <;> rfl
  case dataSecondHalf =>
    split
    · split <;> rfl
    · rfl

@[simp] theorem syncSample_rxBuf (cOff cOn : DurClass) (s : State) : (syncSample cOff cOn s).rx.rxBuf = s.rx.rxBuf := by
  unfold syncSample
  dsimp only
  split <;> rfl

@[simp] theorem syncSample_tx (cOff cOn : DurClass) (s : State) : (syncSample cOff cOn s).tx = s.tx := by
  rw [syncSample_frame]

@[simp] theorem syncSample_cfg (cOff cOn : DurClass) (s : State) : (syncSample cOff cOn s).cfg = s.cfg := by
  rw [syncSample_frame]

/-- All a half-bit window without an edge can do (R150, R156). -/
theorem missWindow_cases (s : State) :
    missWindow s = s
    ∨ missWindow s = { s with rx := { s.rx with rxMiss := s.rx.rxMiss + 1 } }
    ∨ missWindow s = abort .frameTimeoutError { s with rx := { s.rx with rxMiss := s.rx.rxMiss + 1 } } := by
  unfold missWindow
  dsimp only
  split
  · split
    · exact .inr (.inr rfl)
    · exact .inr (.inl rfl)
  · exact .inl rfl

/-- All a trailing idle half-bit can do (R150, R154). -/
theorem stopWindow_cases (s : State) :
    stopWindow s = .fault (.noSuchIndex s.cfg.nmax)
    ∨ stopWindow s = .next { s with rx := { s.rx with rxStopCnt := s.rx.rxStopCnt + 1 } }
    ∨ stopWindow s = .next (post s.rx.rxTask .recvDone (Memory.bytes s.rx.rxBuf s.rx.rxLen)
        { s with rx := { s.rx with rxStopCnt := s.rx.rxStopCnt + 1, rxPhase := .done } }) := by
  unfold stopWindow
  dsimp only
  split
  · split
    · exact .inr (.inr rfl)
    · exact .inl rfl
  · exact .inr (.inl rfl)

theorem execRxRise_keeps_buffers : Preserves BuffersCanonical execRxRise := by
  intro s t hs h
  unfold execRxRise at h
  split at h <;> cases h
  · exact hs
  · exact hs
  · exact hs.of_eq (by simp) (by simp) (by simp)
  · exact hs.of_eq (by simp) (by simp) (by simp)

theorem missWindow_keeps_buffers (s : State) (hs : BuffersCanonical s) : BuffersCanonical (missWindow s) := by
  rcases missWindow_cases s with e | e | e <;> rw [e] <;> exact hs

theorem execRxTick_keeps_buffers : Preserves BuffersCanonical execRxTick := by
  intro s t hs h
  unfold execRxTick at h
  split at h
  · cases h
    exact hs
  · cases h
    exact missWindow_keeps_buffers s hs
  · cases h
    exact missWindow_keeps_buffers s hs
  · rcases stopWindow_cases s with e | e | e <;> rw [e] at h <;> cases h <;> exact hs

theorem execTxTick_keeps_buffers : Preserves BuffersCanonical execTxTick := by
  intro s t hs h
  rcases execTxTick_cases s with ⟨_, _, e⟩ | ⟨_, ⟨_, e⟩ | ⟨_, e⟩⟩ <;> rw [e] at h <;> cases h
  · exact hs.of_eq rfl (tickTx_txBuf _ _) rfl
  · exact hs.of_eq rfl (tickTx_txBuf _ _) rfl

theorem execFadeSetup_keeps_buffers : Preserves BuffersCanonical execFadeSetup := by
  intro s t hs h
  unfold execFadeSetup at h
  split at h <;> cases h
  exact hs

theorem execReceive_keeps_buffers (len task : Nat) : Preserves BuffersCanonical (execReceive len task) := by
  intro s t hs h
  unfold execReceive at h
  split at h <;> cases h
  · exact hs.of_eq rfl rfl (rearm_rxBuf len task s.rx)
  · exact hs

/-! The operations that write a buffer. -/

theorem execTransmit_keeps_buffers (task : Nat) (data : List Byte) :
    Preserves BuffersCanonical (execTransmit task data) := by
  intro s t hs h
  unfold execTransmit at h
  split at h
  case isTrue ha =>
    cases h
    have hlen : 0 + data.length ≤ s.cfg.nmax := by
      simp only [transmitAccepted, decide_eq_true_eq] at ha
      omega
    exact ⟨Memory.wf_writeBytes hlen hs.1, hs.2⟩
  case isFalse =>
    cases h
    exact hs

theorem pushBit_keeps_buffers (b : Bool) : Preserves BuffersCanonical (pushBit b) := by
  intro s t hs h
  rcases pushBit_cases b s with ⟨_, e⟩ | ⟨_, hi, e⟩ | ⟨_, _, e⟩ <;> rw [e] at h <;> cases h
  · exact hs
  · obtain ⟨_, hbuf, _⟩ := storeByte_fields (shiftIn s.rx.rxShift b) s.rx
    refine ⟨hs.1, ?_⟩
    rw [hbuf]
    exact Memory.wf_write hi hs.2

theorem applyAction_keeps_buffers (a : DecAction) : Preserves BuffersCanonical (applyAction a) := by
  cases a with
  | emit0 | emit1 => exact (pushBit_keeps_buffers _).andThen (Preserves.next fun _ hs => hs)
  | emit01 =>
    refine (pushBit_keeps_buffers false).andThen fun s t hs h => ?_
    split at h
    · exact (pushBit_keeps_buffers true).andThen (Preserves.next (g := setPrev true) fun _ hs => hs) hs h
    · cases h
      exact hs
  | error => exact Preserves.next fun _ hs => hs

theorem sample_keeps_buffers (cOff cOn : DurClass) (a : DecAction) : Preserves BuffersCanonical (sample cOff cOn a) := by
  intro s t hs h
  rcases sample_cases cOff cOn a s with ⟨_, e⟩ | ⟨_, e⟩ | ⟨_, e⟩ | ⟨_, e⟩ <;> rw [e] at h
  · cases h
    exact hs
  · cases h
    exact hs
  · cases h
    exact hs.of_eq (by simp) (by simp) (by simp)
  · exact applyAction_keeps_buffers a (s := clearMiss s) hs h

theorem execReset_keeps_buffers : Preserves BuffersCanonical execReset :=
  Preserves.next fun s _ => ⟨Memory.wf_fill s.cfg.nmax _, Memory.wf_fill s.cfg.nmax _⟩

/-- A re-load leaves the sizes of the hardware, `NMAX` among them. -/
theorem reconfigure_keeps_buffers (codec : CodecRegs) (p : FadeParams) :
    Preserves BuffersCanonical (reconfigure codec p) := by
  intro s t hs h
  obtain ⟨_, _, rfl⟩ := reconfigure_eq_next.mp h
  exact hs

theorem buffersCanonical_keptByParts : KeptByParts BuffersCanonical where
  transmit := execTransmit_keeps_buffers
  receive := execReceive_keeps_buffers
  stopReceive := Preserves.next fun _ hs => hs
  txTick := execTxTick_keeps_buffers
  rxRise := execRxRise_keeps_buffers
  sample := sample_keeps_buffers
  rxTick := execRxTick_keeps_buffers
  fadeSetup := execFadeSetup_keeps_buffers
  fadeTick _ := Preserves.next fun _ hs => hs
  reset := execReset_keeps_buffers
  frontEnd _ _ hs := hs
  inputs _ _ hs := hs
  hostWrite _ _ hs := hs
  hostTake _ hs := hs
  hostFlush _ _ hs := hs
  reconfigure := reconfigure_keeps_buffers

/-- Settles O12: each part of a step keeps the canonical form, so every step does. -/
theorem buffersStayCanonical : Obligations.BuffersStayCanonical :=
  fun _ _ hs h => buffersCanonical_keptByParts.step hs h

end Sys2Proof.Machine
end

section
/-! PROOF. The duration windows of R9 and the classes of R92. -/

namespace Sys2Proof.Machine

theorem classify_eq_half {r : CodecRegs} {d : Nat} : classify r d = .half ↔ r.halfMin ≤ d ∧ d ≤ r.halfMax := by
  unfold classify
  split
  · simp_all
  · split <;> simp_all

/-- A window below the Full window hides none of it: the two do not touch (R9). -/
theorem classify_eq_full {r : CodecRegs} {d : Nat} (hr : r.halfMax < r.fullMin) :
    classify r d = .full ↔ r.fullMin ≤ d ∧ d ≤ r.fullMax := by
  unfold classify
  split
  case isTrue hh =>
    simp only [reduceCtorEq, false_iff]
    omega
  case isFalse => split <;> simp_all

theorem classify_ne_invalid {r : CodecRegs} {d : Nat} :
    classify r d ≠ .invalid ↔ (r.halfMin ≤ d ∧ d ≤ r.halfMax) ∨ (r.fullMin ≤ d ∧ d ≤ r.fullMax) := by
  unfold classify
  split
  · simp_all
  · split <;> simp_all

/-- The two conditions of R9. -/
theorem windows_of_paramsWellFormed {p : CodecParams} (h : paramsWellFormed p = true) :
    1 ≤ (calibrate p).halfMin ∧ (calibrate p).halfMax < (calibrate p).fullMin := by
  simp only [paramsWellFormed, decide_eq_true_eq] at h
  obtain ⟨_, _, _, _, _, _, hmin, hgap⟩ := h
  exact ⟨hmin, hgap⟩

/-- Windows that do not touch leave the Full tolerance under one half-bit, and so every window under three (R156). -/
theorem fullMax_lt_three_halfbits {p : CodecParams} (h : (calibrate p).halfMax < (calibrate p).fullMin) :
    (calibrate p).fullMax < 3 * nominalHalf p := by
  simp only [calibrate, nominalFull] at h ⊢
  omega

/-- Settles O48: the windows are those of `calibrate`, apart by R9, and the Full window ends before three half-bits. -/
theorem classifyWindows : Obligations.ClassifyWindows := by
  intro p d hp
  obtain ⟨hmin, hgap⟩ := windows_of_paramsWellFormed hp
  refine ⟨classify_eq_half, classify_eq_full hgap, fun hd => ?_⟩
  have hmax := fullMax_lt_three_halfbits hgap
  have horder : (calibrate p).halfMin ≤ (calibrate p).halfMax ∧ (calibrate p).fullMin ≤ (calibrate p).fullMax := by
    simp only [calibrate]
    omega
  have hbounds : 1 ≤ d ∧ d < 3 * nominalHalf p := by
    rcases classify_ne_invalid.mp hd with ⟨_, _⟩ | ⟨_, _⟩ <;> omega
  exact hbounds

end Sys2Proof.Machine
end

section
/-! PROOF. Properties of the state that rest on what arrives. A property that survives the front-end events and samples
survives everything the line can bring; the handle of a decoded command fits its field (R87), so that a property of the
handles need only survive the commands whose handle fits. -/

namespace Sys2Proof.Machine

/-! What a decoded instruction is. -/

/-- A format N word decodes to the instruction of its code. -/
theorem eq_of_decodeN {w : Nat} {i j : Instr} (h : decodeN w i = .ok j) : i = j := by
  unfold decodeN at h
  split at h <;> cases h
  rfl

/-- The operands of a decoded operation fit their fields (R87). -/
theorem wellFormed_of_decodeOperation {c : Config} {w : Nat} {i : Instr} (h : decodeOperation c w = .ok i) :
    i.wellFormed c = true := by
  have hfield : ∀ n v : Nat, v % 2 ^ n < 2 ^ n := fun n v => Nat.mod_lt v (Nat.two_pow_pos n)
  unfold decodeOperation at h
  dsimp only at h
  split at h
  case h_2 =>
    split at h <;> cases h
    simp [Instr.wellFormed, hfield]
  case h_3 =>
    split at h <;> cases h
    simp [Instr.wellFormed, *]
  case h_7 =>
    split at h <;> cases h
    simp [Instr.wellFormed, *]
  case h_10 =>
    split at h <;> cases h
    rfl
  all_goals
    cases eq_of_decodeN h
    rfl

/-- The operands of every decoded instruction fit their fields, in every space (R87, R103). -/
theorem wellFormed_of_decode {c : Config} {sp : Space} {bytes : List Byte} {i : Instr} (h : decode c sp bytes = .ok i) :
    i.wellFormed c = true := by
  unfold decode decodeWord at h
  split at h
  · exact wellFormed_of_decodeOperation h
  · split at h <;> cases h
    rfl
  · unfold decodeDataSymbol at h
    split at h <;> cases h <;> rfl
  · split at h <;> cases h
    rfl
  · unfold decodeIndex at h
    split at h <;> cases h <;> rfl

/-! What the line can bring. -/

/-- The instructions that reach the machine over the line: the front-end events (R90), the line symbols (R81 to R83) and
the entries of the decode table (R94). -/
def Instr.isLineEvent : Instr → Bool
  | .rxRise | .rxSample _ _ | .rxTick | .dataBit0 | .dataBit1 | .syncPair | .stopHalfbit => true
  | .dec0 | .dec1 | .dec2 | .dec3 | .dec4 | .dec5 | .dec6 | .dec7 => true
  | _ => false

/-- The property survives the transitions of which everything on the line is made. -/
structure KeptOnLine (P : State → Prop) : Prop where
  rxRise : Preserves P execRxRise
  sample : ∀ cOff cOn a, Preserves P (sample cOff cOn a)
  rxTick : Preserves P execRxTick
  frontEnd : ∀ s f, P s → P { s with frontEnd := f }

variable {P : State → Prop}

/-- The line reaches the receiver, the queue and the front end alone. -/
theorem KeptOnLine.of_frame (h : ∀ s r q f, P s → P { s with rx := r, evQ := q, frontEnd := f }) : KeptOnLine P := by
  have hevent : ∀ e, Preserves P (execFrontEvent e) := fun e s t hs he => by
    rw [execFrontEvent_frame he]
    exact h s t.rx t.evQ s.frontEnd hs
  exact
    { rxRise := hevent .rise
      rxTick := hevent .tick
      sample := fun _ _ _ s t hs he => by
        rw [sample_frame he]
        exact h s t.rx t.evQ s.frontEnd hs
      frontEnd := fun s f hs => h s s.rx s.evQ f hs }

namespace KeptOnLine

theorem execFrontEvent (k : KeptOnLine P) (e : FrontEvent) : Preserves P (execFrontEvent e) := by
  cases e with
  | rise => exact k.rxRise
  | sample off on => exact fun _ _ hs h => k.sample _ _ _ hs h
  | tick => exact k.rxTick

theorem clockLine (k : KeptOnLine P) (level : Bool) : Preserves P (clockLine level) := by
  intro s t hs h
  rcases he : (clockFrontEnd s.cfg level s.frontEnd).2 with _ | e
  · cases (clockLine_of_none he).symm.trans h
    exact k.frontEnd s _ hs
  · exact k.execFrontEvent e (k.frontEnd s _ hs) ((clockLine_of_some he).symm.trans h)

theorem holdLine (k : KeptOnLine P) (level : Bool) : ∀ n, Preserves P (holdLine level n)
  | 0 => Preserves.next fun _ hs => hs
  | n + 1 => (k.clockLine level).andThen (k.holdLine level n)

theorem carryLevels (k : KeptOnLine P) : ∀ ls, Preserves P (carryLevels ls)
  | [] => Preserves.next fun _ hs => hs
  | l :: ls => Preserves.andThen (fun _ _ hs h => k.holdLine l _ hs h) (k.carryLevels ls)

/-- A property that survives the parts survives every instruction of the line. -/
theorem exec (k : KeptOnLine P) {i : Instr} (hi : Instr.isLineEvent i = true) : Preserves P (exec i) := by
  cases i with
  | rxRise => exact k.rxRise
  | rxSample off on => exact k.execFrontEvent (.sample off on)
  | rxTick => exact k.rxTick
  | dataBit0 | dataBit1 | syncPair | stopHalfbit => exact k.carryLevels _
  | dec0 | dec1 | dec2 | dec3 | dec4 | dec5 | dec6 | dec7 => exact k.sample _ _ _
  | _ => exact nomatch hi

end KeptOnLine

/-! What can arrive. -/

/-- The property survives each transition of which every step is made, the two commands where their handle fits its
field. -/
structure KeptByArrivals (P : State → Prop) : Prop extends KeptOnLine P where
  transmit : ∀ {s t : State} {task : Nat} {data : List Byte}, task < 2 ^ s.cfg.taskW → P s →
    execTransmit task data s = .next t → P t
  receive : ∀ {s t : State} {len task : Nat}, task < 2 ^ s.cfg.taskW → P s → execReceive len task s = .next t → P t
  stopReceive : Preserves P execStopReceive
  txTick : Preserves P execTxTick
  fadeSetup : Preserves P execFadeSetup
  fadeTick : ∀ ledOk, Preserves P (execFadeTick ledOk)
  reset : Preserves P execReset
  inputs : ∀ s xs, P s → P { s with inputs := xs }
  hostWrite : ∀ s w, P s → P { s with fade := applyHostWrite w s.fade, loaded := noteLoaded w s.loaded }
  hostTake : ∀ s, P s → P { s with evQ := s.evQ.drop 1 }
  hostFlush : ∀ (s : State) (task : Nat), P s → P { s with evQ := s.evQ.filter fun e => decide (e.task ≠ task) }
  reconfigure : ∀ codec p, Preserves P (reconfigure codec p)

namespace KeptByArrivals

theorem exec (k : KeptByArrivals P) {i : Instr} {s t : State} (hi : i.wellFormed s.cfg = true) (hs : P s)
    (h : exec i s = .next t) : P t := by
  cases i with
  | transmit task data =>
    simp only [Instr.wellFormed, decide_eq_true_eq] at hi
    exact k.transmit hi.2 hs h
  | receive len task =>
    simp only [Instr.wellFormed, decide_eq_true_eq] at hi
    exact k.receive hi.2 hs h
  | stopReceive => exact k.stopReceive hs h
  | txTick => exact k.txTick hs h
  | fadeSetup => exact k.fadeSetup hs h
  | fadeTick ledOk => exact k.fadeTick ledOk hs h
  | reset => exact k.reset hs h
  | unassigned0 | unassignedA | unassignedB | unassignedC | unassignedD | unassignedE => exact nomatch h
  | _ => exact k.toKeptOnLine.exec rfl hs h

theorem runInput (k : KeptByArrivals P) (x : Input) : Preserves P (runInput x) := by
  cases x with
  | word sp bytes =>
    intro s t hs h
    rcases hd : decode s.cfg sp bytes with e | i
    · exact nomatch (runWord_of_decode_error hd).symm.trans h
    · exact k.exec (wellFormed_of_decode hd) hs ((runWord_of_decode_ok hd).symm.trans h)
  | hostWrite w => exact Preserves.next fun s hs => k.hostWrite s w hs
  | hostTake => exact Preserves.next k.hostTake
  | hostFlush task => exact Preserves.next fun s hs => k.hostFlush s task hs
  | reconfigure codec p => exact k.reconfigure codec p
  | lineClock level => exact k.toKeptOnLine.clockLine level

/-- A property that survives what can arrive survives every step. -/
theorem step (k : KeptByArrivals P) : Preserves P step := by
  intro s t hs h
  rcases hq : s.inputs with _ | ⟨x, rest⟩
  · cases (step_of_inputs_nil hq).symm.trans h
    exact hs
  · exact k.runInput x (k.inputs s rest hs) ((step_of_inputs_cons hq).symm.trans h)

end KeptByArrivals

end Sys2Proof.Machine
end

section
/-! PROOF. Every step keeps the configuration well-formed: only a re-load writes it, and only to a well-formed set (R51,
R248; log entry 21). What a well-formed configuration says (R8, R9, R11). -/

namespace Sys2Proof.Machine

/-! The two commands (R112, R134), the tick (R118) and the setup (R174). -/

/-- All a `TRANSMIT` can do. -/
theorem execTransmit_cases (task : Nat) (data : List Byte) (s : State) :
    (s.tx.txPhase = .done ∧ s.rx.rxPhase = .done ∧ 1 ≤ data.length ∧ data.length ≤ s.cfg.nmax
      ∧ execTransmit task data s = .next { s with tx := armTransmit task data s.tx })
    ∨ execTransmit task data s = .next s := by
  unfold execTransmit
  split
  case isTrue ha =>
    simp only [transmitAccepted, decide_eq_true_eq] at ha
    obtain ⟨htx, hrx, hpos, hmax⟩ := ha
    exact .inl ⟨htx, hrx, hpos, hmax, rfl⟩
  case isFalse => exact .inr rfl

/-- All a `RECEIVE` can do. -/
theorem execReceive_cases (len task : Nat) (s : State) :
    (s.tx.txPhase = .done ∧ 1 ≤ len ∧ len ≤ s.cfg.nmax
      ∧ execReceive len task s = .next { s with rx := rearm len task s.rx })
    ∨ execReceive len task s = .next s := by
  unfold execReceive
  split
  case isTrue ha =>
    simp only [receiveAccepted, decide_eq_true_eq] at ha
    obtain ⟨htx, hpos, hmax⟩ := ha
    exact .inl ⟨htx, hpos, hmax, rfl⟩
  case isFalse => exact .inr rfl

/-- `TRANSMIT` writes transmit registers alone. -/
theorem execTransmit_frame {task : Nat} {data : List Byte} {s t : State} (h : execTransmit task data s = .next t) :
    t = { s with tx := t.tx } := by
  rcases execTransmit_cases task data s with ⟨_, _, _, _, e⟩ | e <;> cases e.symm.trans h <;> rfl

/-- `RECEIVE` writes receive registers alone. -/
theorem execReceive_frame {len task : Nat} {s t : State} (h : execReceive len task s = .next t) :
    t = { s with rx := t.rx } := by
  rcases execReceive_cases len task s with ⟨_, _, _, e⟩ | e <;> cases e.symm.trans h <;> rfl

/-- A transmit tick writes the registers of R118, whether or not it completes the frame. -/
theorem execTxTick_tx {s t : State} (h : execTxTick s = .next t) : t.tx = tickTx s.cfg.codec s.tx := by
  rcases execTxTick_cases s with ⟨_, _, e⟩ | ⟨_, ⟨_, e⟩ | ⟨_, e⟩⟩ <;> cases e.symm.trans h <;> rfl

/-- `FADE_SETUP` writes the engine alone. -/
theorem execFadeSetup_frame {s t : State} (h : execFadeSetup s = .next t) :
    t = { s with fade := setupFade s.cfg.fade s.fade } := by
  unfold execFadeSetup at h
  split at h <;> cases h
  rfl

/-! The configuration. -/

/-- The configuration is well-formed (R8, R9, R11). -/
def Configured (s : State) : Prop := s.cfg.wf = true

theorem configured_keptByArrivals : KeptByArrivals Configured where
  toKeptOnLine := .of_frame fun _ _ _ _ hs => hs
  transmit _ hs h := by rw [execTransmit_frame h]; exact hs
  receive _ hs h := by rw [execReceive_frame h]; exact hs
  stopReceive := Preserves.next fun _ hs => hs
  txTick _ _ hs h := by rw [execTxTick_frame h]; exact hs
  fadeSetup _ _ hs h := by rw [execFadeSetup_frame h]; exact hs
  fadeTick _ := Preserves.next fun _ hs => hs
  reset := Preserves.next fun _ hs => hs
  inputs _ _ hs := hs
  hostWrite _ _ hs := hs
  hostTake _ hs := hs
  hostFlush _ _ hs := hs
  reconfigure codec p s t _ h := by
    obtain ⟨_, hwf, rfl⟩ := reconfigure_eq_next.mp h
    exact hwf

/-- The sync half-bits come in pairs, and there is at least one stop half-bit (R8). -/
theorem codec_bounds {c : Config} (h : c.wf = true) :
    2 ≤ c.codec.nsync ∧ c.codec.nsync % 2 = 0 ∧ 1 ≤ c.codec.nstop := by
  simp only [Config.wf, CodecRegs.wf, Bool.and_eq_true, decide_eq_true_eq] at h
  obtain ⟨⟨_, hsync, heven, hstop, _⟩, _⟩ := h
  exact ⟨hsync, heven, hstop⟩

/-- A property that survives a transition from configured states survives it together with the configuration. -/
theorem Preserves.configured {P : State → Prop} {f : State → Host.Outcome State Fault Refusal}
    (hc : Preserves Configured f) (h : ∀ {s t}, s.cfg.wf = true → P s → f s = .next t → P t) :
    Preserves (fun s => s.cfg.wf = true ∧ P s) f :=
  fun _ _ ⟨hwf, hs⟩ ht => ⟨hc hwf ht, h hwf hs ht⟩

end Sys2Proof.Machine
end

section
/-! PROOF. Every step keeps the transmit sequencer sane (R23, R24, R67, R120, R127): what that means in each phase, and
that each arc of R127 leads from one to the next. -/

namespace Sys2Proof.Machine

variable {c : Config} {t : Tx}

/-! What a sane transmitter is, phase by phase. -/

/-- The bounds that do not depend on the phase (R23, R67, R87). -/
def TxBounded (c : Config) (t : Tx) : Prop := t.txLen ≤ c.nmax ∧ t.txByte ≤ t.txLen ∧ t.txTask < 2 ^ c.taskW

theorem txSane_of_done (h : t.txPhase = .done) : TxSane c t ↔ TxBounded c t ∧ t.txLine = false := by
  simp [TxSane, TxBounded, h, and_assoc]

theorem txSane_of_syncFirstHalf (h : t.txPhase = .syncFirstHalf) : TxSane c t ↔
    TxBounded c t ∧ 1 ≤ t.txLen ∧ (t.txCnt % 2 = 0 ∧ t.txCnt < c.codec.nsync) ∧ t.txByte = 0 ∧ t.txBit = 7 := by
  simp [TxSane, TxBounded, h, and_assoc]

theorem txSane_of_syncSecondHalf (h : t.txPhase = .syncSecondHalf) : TxSane c t ↔
    TxBounded c t ∧ 1 ≤ t.txLen ∧ (t.txCnt % 2 = 1 ∧ t.txCnt < c.codec.nsync) ∧ t.txByte = 0 ∧ t.txBit = 7 := by
  simp [TxSane, TxBounded, h, and_assoc]

theorem txSane_of_data (h : t.txPhase = .dataFirstHalf ∨ t.txPhase = .dataSecondHalf) : TxSane c t ↔
    TxBounded c t ∧ t.txByte < t.txLen := by
  rcases h with h | h <;> simp [TxSane, TxBounded, h, and_assoc] <;> omega

theorem txSane_of_stop (h : t.txPhase = .stop) : TxSane c t ↔
    TxBounded c t ∧ 1 ≤ t.txLen ∧ t.txByte = t.txLen ∧ t.txBit = 7 ∧ t.txCnt ≤ c.codec.nstop
      ∧ (0 < t.txCnt → t.txLine = false) := by
  simp [TxSane, TxBounded, h, and_assoc]

/-! The operations. -/

/-- Each arc of R127 leads from a sane transmitter to a sane one. -/
theorem tickTx_sane (hc : c.wf = true) (h : TxSane c t) : TxSane c (tickTx c.codec t) := by
  obtain ⟨hsync, heven, hstop⟩ := codec_bounds hc
  rcases hp : t.txPhase <;> simp only [tickTx, hp]
  case syncFirstHalf =>
    obtain ⟨hb, hlen, ⟨hcnt, hlt⟩, hbyte, hbit⟩ := (txSane_of_syncFirstHalf hp).mp h
    exact (txSane_of_syncSecondHalf rfl).mpr ⟨hb, hlen, by dsimp only; omega, hbyte, hbit⟩
  case syncSecondHalf =>
    obtain ⟨hb, hlen, ⟨hcnt, hlt⟩, hbyte, hbit⟩ := (txSane_of_syncSecondHalf hp).mp h
    split
    · exact (txSane_of_data (.inl rfl)).mpr ⟨hb, by dsimp only; omega⟩
    · exact (txSane_of_syncFirstHalf rfl).mpr ⟨hb, hlen, by dsimp only; omega, hbyte, hbit⟩
  case dataFirstHalf =>
    exact (txSane_of_data (.inr rfl)).mpr ((txSane_of_data (.inl hp)).mp h)
  case dataSecondHalf =>
    obtain ⟨⟨hmax, hle, htask⟩, hlt⟩ := (txSane_of_data (.inr hp)).mp h
    split
    · split
      case isTrue hlast =>
        exact (txSane_of_stop rfl).mpr
          ⟨⟨hmax, hlast.le, htask⟩, by dsimp only; omega, hlast, rfl, Nat.zero_le _, fun h0 => nomatch h0⟩
      case isFalse hmore =>
        exact (txSane_of_data (.inl rfl)).mpr ⟨⟨hmax, hlt, htask⟩, by dsimp only; omega⟩
    · exact (txSane_of_data (.inl rfl)).mpr ⟨⟨hmax, hle, htask⟩, hlt⟩
  case stop =>
    obtain ⟨hb, hlen, hbyte, hbit, hcnt, hline⟩ := (txSane_of_stop hp).mp h
    split
    case isTrue hlt => exact (txSane_of_stop rfl).mpr ⟨hb, hlen, hbyte, hbit, hlt, fun _ => rfl⟩
    case isFalse hge => exact (txSane_of_done rfl).mpr ⟨hb, hline (by omega)⟩
  case done => exact h

/-- An accepted command arms a sane transmitter (R112). -/
theorem armTransmit_sane {task : Nat} {data : List Byte} (hc : c.wf = true) (hpos : 1 ≤ data.length)
    (hmax : data.length ≤ c.nmax) (htask : task < 2 ^ c.taskW) : TxSane c (armTransmit task data t) := by
  obtain ⟨hsync, _, _⟩ := codec_bounds hc
  exact (txSane_of_syncFirstHalf rfl).mpr
    ⟨⟨hmax, Nat.zero_le _, htask⟩, hpos, ⟨rfl, by simp only [armTransmit_txCnt]; omega⟩, rfl, rfl⟩

theorem resetTx_sane (n : Nat) : TxSane c (resetTx c n) :=
  (txSane_of_done rfl).mpr ⟨⟨Nat.zero_le _, Nat.zero_le _, Nat.mod_lt _ (Nat.two_pow_pos _)⟩, rfl⟩

/-- An idle transmitter is sane under every configuration of the same sizes. -/
theorem TxSane.reload {codec : CodecRegs} {p : FadeParams} (h : TxSane c t) (hd : t.txPhase = .done) :
    TxSane (reload codec p c) t :=
  (txSane_of_done (c := Machine.reload codec p c) hd).mpr ((txSane_of_done (c := c) hd).mp h)

theorem txSane_keptByArrivals : KeptByArrivals fun s => s.cfg.wf = true ∧ TxSane s.cfg s.tx where
  toKeptOnLine := .of_frame fun _ _ _ _ hs => hs
  transmit {s _ task data} htask := by
    rintro ⟨hwf, hs⟩ h
    rcases execTransmit_cases task data s with ⟨_, _, hpos, hmax, e⟩ | e <;> cases e.symm.trans h
    · exact ⟨hwf, armTransmit_sane hwf hpos hmax htask⟩
    · exact ⟨hwf, hs⟩
  receive _ hs h := by rw [execReceive_frame h]; exact hs
  stopReceive := Preserves.next fun _ hs => hs
  txTick := configured_keptByArrivals.txTick.configured fun {s t} hwf hs h => by
    have hcfg : t.cfg = s.cfg := (congrArg State.cfg (execTxTick_frame h) :)
    rw [hcfg, execTxTick_tx h]
    exact tickTx_sane hwf hs
  fadeSetup _ _ hs h := by rw [execFadeSetup_frame h]; exact hs
  fadeTick _ := Preserves.next fun _ hs => hs
  reset := Preserves.next fun s hs => ⟨hs.1, resetTx_sane s.freeCount⟩
  inputs _ _ hs := hs
  hostWrite _ _ hs := hs
  hostTake _ hs := hs
  hostFlush _ _ hs := hs
  reconfigure codec p := (configured_keptByArrivals.reconfigure codec p).configured fun _ hs h => by
    obtain ⟨hi, _, rfl⟩ := reconfigure_eq_next.mp h
    obtain ⟨htx, _, _⟩ := (idle_iff _).mp hi
    exact hs.reload htx

/-- Settles O13: every arc and every command keeps the transmitter sane, so every step does. -/
theorem transmitterStaysSane : Obligations.TransmitterStaysSane :=
  fun _ _ hwf hs h => (txSane_keptByArrivals.step ⟨hwf, hs⟩ h).2

end Sys2Proof.Machine
end

section
/-! PROOF. Every step keeps the receive sequencer sane (R29, R33, R34, R146, R152, R156): what that means in each phase,
and that each event of R152 leads from one to the next. -/

namespace Sys2Proof.Machine

variable {c : Config} {r : Rx}

/-! What a sane receiver is, phase by phase. -/

/-- The bounds that do not depend on the phase (R29, R87). -/
def RxBounded (c : Config) (r : Rx) : Prop :=
  r.rxLen ≤ c.nmax ∧ r.rxByte + r.rxRemain = r.rxLen ∧ r.rxTask < 2 ^ c.taskW

/-- What an armed receiver keeps in every phase (R134, R150, R214). -/
def RxArmed (r : Rx) : Prop := 1 ≤ r.rxLen ∧ r.rxCause = .none ∧ r.rxMiss.toNat < 4

theorem rxSane_of_done (h : r.rxPhase = .done) : RxSane c r ↔ RxBounded c r ∧ r.rxMiss.toNat ≤ 4 := by
  simp [RxSane, RxBounded, h, and_assoc]

theorem rxSane_of_sync (h : r.rxPhase = .sync) : RxSane c r ↔
    RxBounded c r ∧ RxArmed r ∧ r.rxByte = 0 ∧ r.rxBitCnt = 0 ∧ r.rxStopCnt = 0 ∧ r.rxPrev = true
      ∧ (r.rxSyncCnt % 2 = 0 ∧ r.rxSyncCnt < c.codec.nsync)
      ∧ (r.rxEdgeSeen = false → r.rxMiss = 0 ∧ r.rxSyncCnt = 0) := by
  simp [RxSane, RxBounded, RxArmed, h, and_assoc]
  omega

theorem rxSane_of_data (h : r.rxPhase = .data) : RxSane c r ↔
    RxBounded c r ∧ RxArmed r ∧ 0 < r.rxRemain ∧ r.rxEdgeSeen = true ∧ r.rxSyncCnt = c.codec.nsync
      ∧ r.rxStopCnt = 0 := by
  simp [RxSane, RxBounded, RxArmed, h, and_assoc]
  omega

theorem rxSane_of_stop (h : r.rxPhase = .stop) : RxSane c r ↔
    RxBounded c r ∧ RxArmed r ∧ r.rxRemain = 0 ∧ r.rxBitCnt = 0 ∧ r.rxEdgeSeen = true
      ∧ r.rxStopCnt < c.codec.nstop := by
  simp [RxSane, RxBounded, RxArmed, h, and_assoc]
  omega

theorem RxSane.bounded (h : RxSane c r) : RxBounded c r := by
  obtain ⟨hlen, hsum, htask, _⟩ := h
  exact ⟨hlen, hsum, htask⟩

theorem RxSane.armed (h : RxSane c r) (hp : r.rxPhase ≠ .done) : RxArmed r := by
  obtain ⟨_, _, _, _, harmed, _⟩ := h
  exact harmed hp

/-- A receiver that stops, for whatever cause, is sane (R138, R214). -/
theorem RxSane.stopped {cause : RxCause} (h : RxSane c r) : RxSane c { r with rxCause := cause, rxPhase := .done } := by
  obtain ⟨_, _, _, hmiss, _⟩ := id h
  exact (rxSane_of_done rfl).mpr ⟨h.bounded, hmiss⟩

/-- The first edge may be noted in every phase (R160). -/
theorem RxSane.noted (h : RxSane c r) : RxSane c { r with rxEdgeSeen := true } := by
  obtain ⟨hlen, hsum, htask, hmiss, harmed, hsync, hdata, hstop⟩ := h
  refine ⟨hlen, hsum, htask, hmiss, harmed, fun hp => ?_, fun hp => ?_, fun hp => ?_⟩
  · obtain ⟨hbyte, hbit, hcnt, hprev, heven, hlt, _⟩ := hsync hp
    exact ⟨hbyte, hbit, hcnt, hprev, heven, hlt, fun he => nomatch he⟩
  · obtain ⟨hrem, _, hcnt⟩ := hdata hp
    exact ⟨hrem, rfl, hcnt⟩
  · obtain ⟨hrem, hbit, _, hcnt⟩ := hstop hp
    exact ⟨hrem, hbit, rfl, hcnt⟩

/-- The timeout counter may take any value below the limit, and before the first edge 0 alone (R156). -/
theorem RxSane.withMiss {m : BitVec 3} (h : RxSane c r) (hm : m.toNat < 4) (he : r.rxEdgeSeen = true ∨ m = 0) :
    RxSane c { r with rxMiss := m } := by
  obtain ⟨hlen, hsum, htask, _, harmed, hsync, hdata, hstop⟩ := h
  refine ⟨hlen, hsum, htask, hm.le, fun hp => ?_, fun hp => ?_, hdata, hstop⟩
  · obtain ⟨hpos, hcause, _⟩ := harmed hp
    exact ⟨hpos, hcause, hm⟩
  · obtain ⟨hbyte, hbit, hcnt, hprev, heven, hlt, hseen⟩ := hsync hp
    refine ⟨hbyte, hbit, hcnt, hprev, heven, hlt, fun hf => ⟨?_, (hseen hf).2⟩⟩
    exact he.resolve_left (Bool.eq_false_iff.mp hf)

/-- The previous bit is free once the sync phase is over (R32). -/
theorem RxSane.withPrev {b : Bool} (h : RxSane c r) (hp : r.rxPhase ≠ .sync) : RxSane c { r with rxPrev := b } := by
  obtain ⟨hlen, hsum, htask, hmiss, harmed, _, hdata, hstop⟩ := h
  exact ⟨hlen, hsum, htask, hmiss, harmed, fun he => absurd he hp, hdata, hstop⟩

/-! The front-end events (R142, R150). -/

theorem edge_sane {s : State} (h : RxSane s.cfg s.rx) :
    RxSane (clearMiss (noteEdge s)).cfg (clearMiss (noteEdge s)).rx := by
  simpa using h.noted.withMiss (m := 0) (by decide) (.inr rfl)

theorem missWindow_sane {s : State} (h : RxSane s.cfg s.rx) (hp : s.rx.rxPhase ≠ .done) :
    RxSane (missWindow s).cfg (missWindow s).rx := by
  obtain ⟨_, _, hlt⟩ := h.armed hp
  have hnext : (s.rx.rxMiss + 1).toNat = s.rx.rxMiss.toNat + 1 := by bv_omega
  unfold missWindow
  split
  case isTrue hseen =>
    dsimp only
    split
    case isTrue hlimit =>
      exact (rxSane_of_done rfl).mpr ⟨h.bounded, by simp only [abort_rx]; omega⟩
    case isFalse hlimit =>
      refine h.withMiss ?_ (.inl hseen)
      have hne : (s.rx.rxMiss + 1).toNat ≠ 4 := fun e => hlimit (BitVec.eq_of_toNat_eq e)
      omega
  case isFalse => exact h

theorem stopWindow_sane {s t : State} (h : RxSane s.cfg s.rx) (hp : s.rx.rxPhase = .stop)
    (ht : stopWindow s = .next t) : RxSane t.cfg t.rx := by
  obtain ⟨hb, ⟨hpos, hcause, hmiss⟩, hrem, hbit, hseen, hcnt⟩ := (rxSane_of_stop hp).mp h
  unfold stopWindow at ht
  dsimp only at ht
  split at ht
  · split at ht <;> cases ht
    exact (rxSane_of_done rfl).mpr ⟨hb, hmiss.le⟩
  · cases ht
    exact (rxSane_of_stop (by exact hp)).mpr ⟨hb, ⟨hpos, hcause, hmiss⟩, hrem, hbit, hseen, by dsimp only; omega⟩

/-! A sample (R144, R146). -/

theorem syncSample_sane {cOff cOn : DurClass} {s : State} (hc : s.cfg.wf = true) (h : RxSane s.cfg s.rx)
    (hp : s.rx.rxPhase = .sync) (hseen : s.rx.rxEdgeSeen = true) :
    RxSane (syncSample cOff cOn s).cfg (syncSample cOff cOn s).rx := by
  obtain ⟨_, hpairs, _⟩ := codec_bounds hc
  obtain ⟨hb, harmed, hbyte, hbit, hstop, hprev, ⟨heven, hlt⟩, _⟩ := (rxSane_of_sync hp).mp h
  obtain ⟨_, hsum, _⟩ := id hb
  obtain ⟨hpos, _, _⟩ := id harmed
  unfold syncSample
  dsimp only
  split
  · by_cases hlast : s.rx.rxSyncCnt + 2 ≥ s.cfg.codec.nsync
    · exact (rxSane_of_data (by simp [hlast])).mpr
        ⟨hb, harmed, by dsimp only; omega, hseen, by dsimp only; omega, hstop⟩
    · exact (rxSane_of_sync (by simp [hlast, hp])).mpr
        ⟨hb, harmed, hbyte, hbit, hstop, by simp [hprev], by dsimp only; omega, fun he => nomatch hseen.symm.trans he⟩
  · exact h.stopped

/-- The byte packer leads from a sane data phase to a sane data or stop phase. -/
theorem pushBit_sane {b : Bool} {s t : State} (hc : s.cfg.wf = true) (h : RxSane s.cfg s.rx)
    (hp : s.rx.rxPhase = .data) (ht : pushBit b s = .next t) : RxSane t.cfg t.rx ∧ t.rx.rxPhase ≠ .sync := by
  obtain ⟨_, _, hnstop⟩ := codec_bounds hc
  obtain ⟨⟨hlen, hsum, htask⟩, ⟨hpos, hcause, hmiss⟩, hrem, hseen, hcnt, hstop⟩ := (rxSane_of_data hp).mp h
  rcases pushBit_cases b s with ⟨_, e⟩ | ⟨_, _, e⟩ | ⟨_, _, e⟩ <;> cases e.symm.trans ht
  · exact ⟨(rxSane_of_data (by exact hp)).mpr
      ⟨⟨hlen, hsum, htask⟩, ⟨hpos, hcause, hmiss⟩, hrem, hseen, hcnt, hstop⟩, by simp [hp]⟩
  · obtain ⟨_, _, hbyte', hrem', hbit', hphase', hstop'⟩ := storeByte_fields (shiftIn s.rx.rxShift b) s.rx
    obtain ⟨hlen', _, hcnt', hmiss', hseen', htask', hcause'⟩ := storeByte_keeps (shiftIn s.rx.rxShift b) s.rx
    dsimp only
    have hb : RxBounded s.cfg (storeByte (shiftIn s.rx.rxShift b) s.rx) := by
      unfold RxBounded
      rw [hlen', hbyte', hrem', htask']
      exact ⟨hlen, by omega, htask⟩
    have harmed : RxArmed (storeByte (shiftIn s.rx.rxShift b) s.rx) := by
      unfold RxArmed
      rw [hlen', hcause', hmiss']
      exact ⟨hpos, hcause, hmiss⟩
    by_cases hlast : s.rx.rxRemain - 1 = 0
    · rw [if_pos hlast] at hphase' hstop'
      exact ⟨(rxSane_of_stop hphase').mpr
        ⟨hb, harmed, hrem'.trans hlast, hbit', hseen'.trans hseen, by omega⟩, by simp [hphase']⟩
    · rw [if_neg hlast] at hphase' hstop'
      exact ⟨(rxSane_of_data (hphase'.trans hp)).mpr
        ⟨hb, harmed, by omega, hseen'.trans hseen, hcnt'.trans hcnt, hstop'.trans hstop⟩, by simp [hphase', hp]⟩

theorem applyAction_sane {a : DecAction} {s t : State} (hc : s.cfg.wf = true) (h : RxSane s.cfg s.rx)
    (hp : s.rx.rxPhase = .data) (ht : applyAction a s = .next t) : RxSane t.cfg t.rx := by
  cases a with
  | emit0 | emit1 =>
    obtain ⟨u, hu, hv⟩ := andThen_eq_next.mp ht
    obtain ⟨hsane, hphase⟩ := pushBit_sane hc h hp hu
    cases hv
    exact hsane.withPrev hphase
  | emit01 =>
    obtain ⟨u, hu, hv⟩ := andThen_eq_next.mp ht
    obtain ⟨hsane, _⟩ := pushBit_sane hc h hp hu
    split at hv
    case isTrue hdata =>
      obtain ⟨v, hpush, hw⟩ := andThen_eq_next.mp hv
      have hcu : u.cfg.wf = true := by rw [pushBit_frame hu]; exact hc
      obtain ⟨hsane, hphase⟩ := pushBit_sane hcu hsane hdata hpush
      cases hw
      exact hsane.withPrev hphase
    case isFalse =>
      cases hv
      exact hsane.stopped
  | error =>
    cases ht
    exact h.stopped

/-! The operations. -/

/-- An accepted command arms a sane receiver (R134). -/
theorem rearm_sane {len task : Nat} (hc : c.wf = true) (hpos : 1 ≤ len) (hmax : len ≤ c.nmax)
    (htask : task < 2 ^ c.taskW) : RxSane c (rearm len task r) := by
  obtain ⟨hsync, _, _⟩ := codec_bounds hc
  exact (rxSane_of_sync rfl).mpr
    ⟨⟨hmax, Nat.zero_add len, htask⟩, ⟨hpos, rfl, by simp⟩, rfl, rfl, rfl, rfl,
      ⟨rfl, by simp only [rearm_rxSyncCnt]; omega⟩, fun _ => ⟨rfl, rfl⟩⟩

theorem resetRx_sane (n : Nat) : RxSane c (resetRx c n) :=
  (rxSane_of_done rfl).mpr ⟨⟨Nat.zero_le _, rfl, Nat.mod_lt _ (Nat.two_pow_pos _)⟩, Nat.zero_le _⟩

/-- A disabled receiver is sane under every configuration of the same sizes. -/
theorem RxSane.reload {codec : CodecRegs} {p : FadeParams} (h : RxSane c r) (hd : r.rxPhase = .done) :
    RxSane (reload codec p c) r :=
  (rxSane_of_done (c := Machine.reload codec p c) hd).mpr ((rxSane_of_done (c := c) hd).mp h)

theorem rxSane_keptOnLine : KeptOnLine fun s => s.cfg.wf = true ∧ RxSane s.cfg s.rx where
  rxRise := configured_keptByArrivals.rxRise.configured fun _ hs h => by
    unfold execRxRise at h
    split at h <;> cases h
    · exact hs
    · exact hs.stopped
    · exact edge_sane hs
    · exact edge_sane hs
  sample cOff cOn a := (configured_keptByArrivals.sample cOff cOn a).configured fun {s _} hwf hs h => by
    rcases sample_cases cOff cOn a s with ⟨_, e⟩ | ⟨_, e⟩ | ⟨hp, e⟩ | ⟨hp, e⟩
    · cases e.symm.trans h
      exact hs
    · cases e.symm.trans h
      exact hs.stopped
    · cases e.symm.trans h
      exact syncSample_sane (by simpa using hwf) (edge_sane hs) (by simpa using hp) (by simp)
    · exact applyAction_sane (s := clearMiss s) hwf (hs.withMiss (by decide) (.inr rfl)) hp (e.symm.trans h)
  rxTick := configured_keptByArrivals.rxTick.configured fun _ hs h => by
    unfold execRxTick at h
    split at h
    case h_1 => cases h; exact hs
    case h_2 hp => cases h; exact missWindow_sane hs (by simp [hp])
    case h_3 hp => cases h; exact missWindow_sane hs (by simp [hp])
    case h_4 hp => exact stopWindow_sane hs hp h
  frontEnd _ _ hs := hs

theorem rxSane_keptByArrivals : KeptByArrivals fun s => s.cfg.wf = true ∧ RxSane s.cfg s.rx where
  toKeptOnLine := rxSane_keptOnLine
  transmit _ hs h := by rw [execTransmit_frame h]; exact hs
  receive {s _ len task} htask := by
    rintro ⟨hwf, hs⟩ h
    rcases execReceive_cases len task s with ⟨_, hpos, hmax, e⟩ | e <;> cases e.symm.trans h
    · exact ⟨hwf, rearm_sane hwf hpos hmax htask⟩
    · exact ⟨hwf, hs⟩
  stopReceive := Preserves.next fun _ hs => ⟨hs.1, hs.2.stopped⟩
  txTick _ _ hs h := by rw [execTxTick_frame h]; exact hs
  fadeSetup _ _ hs h := by rw [execFadeSetup_frame h]; exact hs
  fadeTick _ := Preserves.next fun _ hs => hs
  reset := Preserves.next fun s hs => ⟨hs.1, resetRx_sane s.freeCount⟩
  inputs _ _ hs := hs
  hostWrite _ _ hs := hs
  hostTake _ hs := hs
  hostFlush _ _ hs := hs
  reconfigure codec p := (configured_keptByArrivals.reconfigure codec p).configured fun _ hs h => by
    obtain ⟨hi, _, rfl⟩ := reconfigure_eq_next.mp h
    obtain ⟨_, hrx, _⟩ := (idle_iff _).mp hi
    exact hs.reload hrx

/-- Settles O14: every event and every command keeps the receiver sane, so every step does. -/
theorem receiverStaysSane : Obligations.ReceiverStaysSane :=
  fun _ _ hwf hs h => (rxSane_keptByArrivals.step ⟨hwf, hs⟩ h).2

end Sys2Proof.Machine
end

section
/-! PROOF. Every step keeps the ramp registers clear when no ramp runs, and small enough not to overflow when one does
(R49, R188, R199). -/

namespace Sys2Proof.Machine

/-! What the bounds of R11 say of a setup. -/

/-- The bounds of R11, table by table. -/
theorem fade_bounds {outW : Nat} {p : FadeParams} (h : p.wf outW = true) :
    p.tickUs.toNat < 2 ^ 31 ∧ p.fastFadeUnitUs.toNat < 2 ^ 23 ∧ p.rateWindowUs.toNat < 2 ^ 31
    ∧ (∀ (i : Nat) (hi : i < 16), i ≠ 0 → p.fadeTimeUs[i].toNat < 2 ^ 31)
    ∧ ∀ (i : Nat) (hi : i < 16), p.rateStepUs[i].toNat < 2 ^ 31 := by
  simp only [FadeParams.wf, Bool.and_eq_true, decide_eq_true_eq, List.all_eq_true] at h
  obtain ⟨⟨⟨⟨_, htick, hfast, hwindow, _⟩, htime⟩, hrate⟩, _⟩ := h
  refine ⟨htick, hfast, hwindow, fun i hi h0 => htime _ ?_, fun i hi => (hrate _ ?_).2⟩
  · refine List.mem_drop_iff_getElem.mpr ⟨i - 1, by simp; omega, ?_⟩
    simp [Nat.add_sub_cancel' (Nat.one_le_iff_ne_zero.mpr h0)]
  · exact Vector.mem_toList_iff.mpr (Vector.getElem_mem hi)

/-- The parameters of the engine are part of a well-formed configuration. -/
theorem fadeParams_wf {c : Config} (h : c.wf = true) : c.fade.wf c.outW = true := by
  simp only [Config.wf, Bool.and_eq_true] at h
  exact h.2

/-- A setup never takes a period that overflows (R199). -/
theorem setupPeriod_lt {outW : Nat} {p : FadeParams} (h : p.wf outW = true) (f : Fade) :
    (setupPeriod p f).toNat < 2 ^ 31 := by
  obtain ⟨_, hfast, hwindow, htime, _⟩ := fade_bounds h
  unfold setupPeriod
  split
  · exact hwindow
  · split
    case isTrue h0 =>
      refine htime _ f.fadeTime.isLt fun he => h0 (BitVec.eq_of_toNat_eq he)
    case isFalse =>
      have hunits := f.fastFadeTime.isLt
      have hprod : f.fastFadeTime.toNat * p.fastFadeUnitUs.toNat < 2 ^ 8 * 2 ^ 23 := Nat.mul_lt_mul'' hunits hfast
      have hval : (f.fastFadeTime.zeroExtend 32 * p.fastFadeUnitUs).toNat
          = f.fastFadeTime.toNat * p.fastFadeUnitUs.toNat := by
        rw [BitVec.toNat_mul, BitVec.zeroExtend_eq_setWidth, BitVec.toNat_setWidth_of_le (by decide),
          Nat.mod_eq_of_lt (by omega)]
      omega

/-- A setup never takes an increment that overflows (R199). -/
theorem setupIncrement_lt {outW : Nat} {p : FadeParams} (h : p.wf outW = true) (f : Fade) (d : Nat) :
    (setupIncrement p f d).toNat < 2 ^ 31 := by
  obtain ⟨_, _, _, _, hrate⟩ := fade_bounds h
  unfold setupIncrement
  split
  · exact hrate _ f.fadeRate.isLt
  · rw [BitVec.toNat_ofNat]
    calc (setupPeriod p f).toNat / d % 2 ^ 32 ≤ (setupPeriod p f).toNat / d := Nat.mod_le _ _
      _ ≤ (setupPeriod p f).toNat := Nat.div_le_self _ _
      _ < 2 ^ 31 := setupPeriod_lt h f

/-! What a setup and a tick can do. -/

/-- All a setup can do with its clamped target: be there at once, or start a ramp (R174, R180). -/
theorem startRamp_cases (p : FadeParams) (r : Level) (f : Fade) :
    startRamp p r f = clearRamp { f with actualLevel := r }
    ∨ (setupPeriod p f ≠ 0 ∧ startRamp p r f =
        { f with
          fadeMode := if f.fadeRateRequested then .rate else .time
          fadeDirection := if r > f.actualLevel then .up else .down
          fadePeriod := setupPeriod p f
          fadeIncrement := setupIncrement p f (dist f.minLevel f.actualLevel r)
          fadeCounter := 0
          fadeRunning := true }) := by
  unfold startRamp
  dsimp only
  split
  case isTrue => exact .inl rfl
  case isFalse hne => exact .inr ⟨fun h0 => hne (.inr h0), rfl⟩

/-- A setup with a request clamps its target, starts the ramp and drops the requests (R174). -/
theorem setupFade_of_request {p : FadeParams} {f : Fade} (h : f.outputChangeRequested = true) :
    setupFade p f =
      { startRamp p (clamp f.minLevel f.maxLevel f.requestedLevel).1
          { f with
            limitError := (clamp f.minLevel f.maxLevel f.requestedLevel).2
            requestedLevel := (clamp f.minLevel f.maxLevel f.requestedLevel).1 } with
        fadeRateRequested := false
        outputChangeRequested := false } := by
  unfold setupFade
  rw [if_pos h]

theorem setupFade_of_no_request {p : FadeParams} {f : Fade} (h : f.outputChangeRequested = false) :
    setupFade p f = f := by
  unfold setupFade
  rw [if_neg (Bool.eq_false_iff.mp h)]

/-! What a sane engine is, with and without a ramp. -/

theorem fadeSane_of_idle {f : Fade} (h : f.fadeRunning = false) :
    FadeSane f ↔ f.fadePeriod = 0 ∧ f.fadeIncrement = 0 ∧ f.fadeCounter = 0 := by
  simp [FadeSane, h]

theorem fadeSane_of_running {f : Fade} (h : f.fadeRunning = true) :
    FadeSane f ↔
      (f.fadePeriod ≠ 0 ∧ f.fadePeriod.toNat < 2 ^ 31 ∧ f.fadeIncrement.toNat < 2 ^ 31 ∧ f.fadeCounter.toNat < 2 ^ 31)
      ∧ (f.fadeMode = .rate → f.fadeCounter.toNat + f.fadePeriod.toNat < 2 ^ 31) := by
  simp [FadeSane, h]

theorem clearRamp_sane (f : Fade) : FadeSane (clearRamp f) := (fadeSane_of_idle rfl).mpr ⟨rfl, rfl, rfl⟩

/-! The operations. -/

theorem startRamp_sane {outW : Nat} {p : FadeParams} (hp : p.wf outW = true) (r : Level) (f : Fade) :
    FadeSane (startRamp p r f) := by
  have hperiod := setupPeriod_lt hp f
  rcases startRamp_cases p r f with e | ⟨h0, e⟩ <;> rw [e]
  · exact clearRamp_sane _
  · refine (fadeSane_of_running rfl).mpr
      ⟨⟨h0, hperiod, setupIncrement_lt hp f _, Nat.two_pow_pos 31⟩, fun _ => ?_⟩
    exact (Nat.zero_add _).trans_lt hperiod

theorem setupFade_sane {outW : Nat} {p : FadeParams} {f : Fade} (hp : p.wf outW = true) (h : FadeSane f) :
    FadeSane (setupFade p f) := by
  rcases hr : f.outputChangeRequested
  · rw [setupFade_of_no_request hr]
    exact h
  · rw [setupFade_of_request hr]
    exact startRamp_sane hp _ _

/-- A tick takes from the period what it adds to the counter, so their sum does not grow (R186, R188, R199). -/
theorem stepRamp_sane {outW : Nat} {p : FadeParams} {f : Fade} (hp : p.wf outW = true) (h : FadeSane f)
    (hr : f.fadeRunning = true) : FadeSane (stepRamp p f) := by
  obtain ⟨htick, _⟩ := fade_bounds hp
  obtain ⟨⟨hperiod, hplt, hinc, hcnt⟩, hsum⟩ := (fadeSane_of_running hr).mp h
  obtain ⟨hends, hmoved⟩ := moveLevel_ends p f
  have hadd : (f.fadeCounter + p.tickUs).toNat = f.fadeCounter.toNat + p.tickUs.toNat := by bv_omega
  unfold stepRamp
  dsimp only
  rcases endTick_cases p { f with actualLevel := (moveLevel p f).1, fadeCounter := (moveLevel p f).2 } with
    ⟨_, _, e⟩ | ⟨hmode, hshort, e⟩ | ⟨_, _, e⟩ | ⟨hmode, hleft, e⟩ <;> rw [e]
  · exact clearRamp_sane _
  · have hlt : (moveLevel p f).2.toNat < f.fadeIncrement.toNat :=
      hends.resolve_right fun hreached => nomatch hshort.symm.trans hreached
    refine (fadeSane_of_running (by exact hr)).mpr ⟨⟨hperiod, hplt, hinc, hlt.trans hinc⟩, fun hrate => ?_⟩
    exact nomatch hmode.symm.trans hrate
  · exact clearRamp_sane _
  · have hlong : p.tickUs.toNat < f.fadePeriod.toNat := by
      by_contra hle
      exact hleft (if_pos (Nat.le_of_not_lt hle))
    have hrest : remaining p f = f.fadePeriod - p.tickUs := if_neg (Nat.not_le_of_lt hlong)
    have hval : (remaining p f).toNat = f.fadePeriod.toNat - p.tickUs.toNat := by
      rw [hrest, BitVec.toNat_sub_of_le hlong.le]
    have hbudget := hsum hmode
    show FadeSane { f with
      actualLevel := (moveLevel p f).1, fadeCounter := (moveLevel p f).2, fadePeriod := remaining p f }
    exact (fadeSane_of_running (by exact hr)).mpr
      ⟨⟨hleft, by dsimp only; omega, hinc, by dsimp only; omega⟩, fun _ => by dsimp only; omega⟩

theorem fadeSane_keptByArrivals : KeptByArrivals fun s => s.cfg.wf = true ∧ FadeSane s.fade where
  toKeptOnLine := .of_frame fun _ _ _ _ hs => hs
  transmit _ hs h := by rw [execTransmit_frame h]; exact hs
  receive _ hs h := by rw [execReceive_frame h]; exact hs
  stopReceive := Preserves.next fun _ hs => hs
  txTick _ _ hs h := by rw [execTxTick_frame h]; exact hs
  fadeSetup := configured_keptByArrivals.fadeSetup.configured fun hwf hs h => by
    rw [execFadeSetup_frame h]
    exact setupFade_sane (fadeParams_wf hwf) hs
  fadeTick ledOk := Preserves.next fun s hs => by
    obtain ⟨hwf, hs⟩ := hs
    refine ⟨hwf, ?_⟩
    show FadeSane (if s.fade.fadeRunning then stepRamp s.cfg.fade s.fade else s.fade)
    split
    case isTrue hr => exact stepRamp_sane (fadeParams_wf hwf) hs hr
    case isFalse => exact hs
  reset := Preserves.next fun _ hs => ⟨hs.1, (fadeSane_of_idle rfl).mpr ⟨rfl, rfl, rfl⟩⟩
  inputs _ _ hs := hs
  hostWrite s w hs := by cases w <;> exact hs
  hostTake _ hs := hs
  hostFlush _ _ hs := hs
  reconfigure codec p := (configured_keptByArrivals.reconfigure codec p).configured fun _ hs h => by
    obtain ⟨_, _, rfl⟩ := reconfigure_eq_next.mp h
    exact hs

/-- Settles O15: a setup and a tick keep the engine sane, and nothing else writes the ramp registers but `RESET`. -/
theorem fadeEngineStaysSane : Obligations.FadeEngineStaysSane :=
  fun _ _ hwf hs h => (fadeSane_keptByArrivals.step ⟨hwf, hs⟩ h).2

end Sys2Proof.Machine
end

section
/-! PROOF. A disabled receiver keeps its registers whatever the line brings (R27, R72, R220), and so the bus stays
half-duplex (R114, R136, R250). -/

namespace Sys2Proof.Machine

/-! The disabled receiver. -/

/-- Nothing on the line reaches the registers of a disabled receiver (R220). -/
theorem disabled_keptOnLine {r : Rx} (hr : r.rxPhase = .done) : KeptOnLine fun s => s.rx = r where
  rxRise s t hs h := by
    subst hs
    simp only [execRxRise, hr] at h
    cases h
    rfl
  sample cOff cOn a s t hs h := by
    subst hs
    simp only [sample, hr] at h
    cases h
    rfl
  rxTick s t hs h := by
    subst hs
    simp only [execRxTick, hr] at h
    cases h
    rfl
  frontEnd _ _ hs := hs

/-- Settles O40: of the operations that write receive registers at all, every one but `RECEIVE` and `RESET` comes over
the line or only disables the receiver. -/
theorem disabledReceiverIgnoresEvents : Obligations.DisabledReceiverIgnoresEvents := by
  intro s t i hd h hreset hreceive
  cases i with
  | transmit task data => exact (congrArg State.rx (execTransmit_frame h) :)
  | receive len task => exact absurd rfl (hreceive len task)
  | stopReceive =>
    cases h
    show { s.rx with rxPhase := .done } = s.rx
    rw [← hd]
  | txTick => exact (congrArg State.rx (execTxTick_frame h) :)
  | fadeSetup => exact (congrArg State.rx (execFadeSetup_frame h) :)
  | fadeTick ledOk =>
    cases h
    rfl
  | reset => exact absurd rfl hreset
  | unassigned0 | unassignedA | unassignedB | unassignedC | unassignedD | unassignedE => exact nomatch h
  | _ => exact (disabled_keptOnLine hd).exec rfl rfl h

/-! Half-duplex. -/

/-- While the transmitter is busy the receiver is disabled, and nothing that leaves both alone arms it. -/
theorem HalfDuplex.of_line {f : State → Host.Outcome State Fault Refusal} (htx : ∀ {s t}, f s = .next t → t.tx = s.tx)
    (hrx : ∀ {r : Rx}, r.rxPhase = .done → Preserves (fun s => s.rx = r) f) : Preserves HalfDuplex f := by
  intro s t hs h hbusy
  rw [htx h] at hbusy
  have hdone := hs hbusy
  rw [hrx hdone rfl h]
  exact hdone

/-- A tick never starts a transmission (R127). -/
theorem tickTx_of_done {c : CodecRegs} {t : Tx} (h : t.txPhase = .done) : tickTx c t = t := by
  simp only [tickTx, h]

theorem halfDuplex_keptByArrivals : KeptByArrivals HalfDuplex where
  rxRise := .of_line (fun h => (congrArg State.tx (execFrontEvent_frame (e := .rise) h) :))
    fun hr => (disabled_keptOnLine hr).rxRise
  sample _ _ _ := .of_line (fun h => (congrArg State.tx (sample_frame h) :))
    fun hr => (disabled_keptOnLine hr).sample _ _ _
  rxTick := .of_line (fun h => (congrArg State.tx (execFrontEvent_frame (e := .tick) h) :))
    fun hr => (disabled_keptOnLine hr).rxTick
  frontEnd _ _ hs := hs
  transmit {s _ task data} _ hs h := by
    rcases execTransmit_cases task data s with ⟨_, hrx, _, _, e⟩ | e <;> cases e.symm.trans h
    · exact fun _ => hrx
    · exact hs
  receive {s _ len task} _ hs h := by
    rcases execReceive_cases len task s with ⟨htx, _, _, e⟩ | e <;> cases e.symm.trans h
    · exact fun hbusy => absurd htx hbusy
    · exact hs
  stopReceive := Preserves.next fun _ _ _ => rfl
  txTick s t hs h hbusy := by
    rw [execTxTick_frame h]
    refine hs fun hd => hbusy ?_
    rw [execTxTick_tx h, tickTx_of_done hd]
    exact hd
  fadeSetup _ _ hs h := by rw [execFadeSetup_frame h]; exact hs
  fadeTick _ := Preserves.next fun _ hs => hs
  reset := Preserves.next fun _ _ _ => rfl
  inputs _ _ hs := hs
  hostWrite _ _ hs := hs
  hostTake _ hs := hs
  hostFlush _ _ hs := hs
  reconfigure _ _ _ _ hs h := by
    obtain ⟨_, _, rfl⟩ := reconfigure_eq_next.mp h
    exact hs

end Sys2Proof.Machine
end

section
/-! PROOF. What an operation posts: nothing but the host takes from the queue, and every record carries the handle of its
operation (R36, R72, R222). -/

namespace Sys2Proof.Machine

/-! What the line posts. -/

/-- A record as R36 says it, of the operation with handle `task`. -/
def RecordOf (c : Config) (task : Nat) (e : Event) : Prop :=
  e.task = task ∧ (e.kind ≠ .recvDone → e.payload = []) ∧ e.payload.length ≤ c.nmax

/-- From `s` to `t` the receive operation goes on, and what it posts is appended under its own handle. -/
def Reports (s t : State) : Prop :=
  t.cfg = s.cfg ∧ t.rx.rxTask = s.rx.rxTask
  ∧ ∃ new, t.evQ = s.evQ ++ new ∧ ∀ e ∈ new, RecordOf s.cfg s.rx.rxTask e

variable {s t u : State}

theorem Reports.silent (hc : t.cfg = s.cfg) (hk : t.rx.rxTask = s.rx.rxTask) (hq : t.evQ = s.evQ) : Reports s t :=
  ⟨hc, hk, [], by simp [hq], fun _ h => nomatch h⟩

theorem Reports.refl (s : State) : Reports s s := .silent rfl rfl rfl

theorem Reports.trans (h : Reports s t) (h' : Reports t u) : Reports s u := by
  obtain ⟨hc, hk, new, hq, hnew⟩ := h
  obtain ⟨hc', hk', new', hq', hnew'⟩ := h'
  rw [hc, hk] at hnew'
  refine ⟨hc'.trans hc, hk'.trans hk, new ++ new', by rw [hq', hq, List.append_assoc], fun e he => ?_⟩
  exact (List.mem_append.mp he).elim (hnew e) (hnew' e)

/-- One record under the receiver's own handle. -/
theorem Reports.posted {kind : EventKind} {payload : List Byte} {r : Rx} (hr : r.rxTask = s.rx.rxTask)
    (hp : kind ≠ .recvDone → payload = []) (hn : payload.length ≤ s.cfg.nmax) :
    Reports s (post s.rx.rxTask kind payload { s with rx := r }) :=
  ⟨rfl, hr, _, rfl, fun _ he => by cases List.mem_singleton.mp he; exact ⟨rfl, hp, hn⟩⟩

theorem abort_reports (cause : RxCause) (s : State) : Reports s (abort cause s) :=
  .posted rfl (fun _ => rfl) (Nat.zero_le _)

theorem noteEdge_reports (s : State) : Reports s (noteEdge s) := by
  unfold noteEdge
  split
  · exact .refl s
  · exact .posted rfl (fun _ => rfl) (Nat.zero_le _)

theorem edge_reports (s : State) : Reports s (clearMiss (noteEdge s)) :=
  (noteEdge_reports s).trans (.silent rfl rfl rfl)

theorem syncSample_reports (cOff cOn : DurClass) (s : State) : Reports s (syncSample cOff cOn s) := by
  unfold syncSample
  dsimp only
  split
  · exact .silent rfl rfl rfl
  · exact abort_reports _ s

theorem pushBit_reports {b : Bool} (h : pushBit b s = .next t) : Reports s t := by
  rcases pushBit_cases b s with ⟨_, e⟩ | ⟨_, _, e⟩ | ⟨_, _, e⟩ <;> cases e.symm.trans h
  · exact .silent rfl rfl rfl
  · obtain ⟨_, _, _, _, _, htask, _⟩ := storeByte_keeps (shiftIn s.rx.rxShift b) s.rx
    exact .silent rfl htask rfl

theorem applyAction_reports {a : DecAction} (h : applyAction a s = .next t) : Reports s t := by
  cases a with
  | emit0 | emit1 =>
    obtain ⟨u, hu, hv⟩ := andThen_eq_next.mp h
    cases hv
    exact (pushBit_reports hu).trans (.silent rfl rfl rfl)
  | emit01 =>
    obtain ⟨u, hu, hv⟩ := andThen_eq_next.mp h
    refine (pushBit_reports hu).trans ?_
    split at hv
    · obtain ⟨v, hpush, hw⟩ := andThen_eq_next.mp hv
      cases hw
      exact (pushBit_reports hpush).trans (.silent rfl rfl rfl)
    · cases hv
      exact abort_reports _ u
  | error =>
    cases h
    exact abort_reports _ s

theorem missWindow_reports (s : State) : Reports s (missWindow s) := by
  rcases missWindow_cases s with e | e | e <;> rw [e]
  · exact .refl s
  · exact .silent rfl rfl rfl
  · exact .posted rfl (fun _ => rfl) (Nat.zero_le _)

/-- The frame is delivered only where it fits the buffer (R150, R158). -/
theorem stopWindow_reports (h : stopWindow s = .next t) : Reports s t := by
  unfold stopWindow at h
  dsimp only at h
  split at h
  · split at h <;> cases h
    exact .posted rfl (fun hk => absurd rfl hk) (by rwa [Memory.bytes_length])
  · cases h
    exact .silent rfl rfl rfl

theorem execRxRise_reports (h : execRxRise s = .next t) : Reports s t := by
  unfold execRxRise at h
  split at h <;> cases h
  · exact .refl s
  · exact abort_reports _ s
  · exact edge_reports s
  · exact edge_reports s

theorem sample_reports {cOff cOn : DurClass} {a : DecAction} (h : sample cOff cOn a s = .next t) : Reports s t := by
  rcases sample_cases cOff cOn a s with ⟨_, e⟩ | ⟨_, e⟩ | ⟨_, e⟩ | ⟨_, e⟩
  · cases e.symm.trans h
    exact .refl s
  · cases e.symm.trans h
    exact abort_reports _ s
  · cases e.symm.trans h
    exact (edge_reports s).trans (syncSample_reports _ _ _)
  · exact (Reports.silent (t := clearMiss s) rfl rfl rfl).trans (applyAction_reports (e.symm.trans h))

theorem execRxTick_reports (h : execRxTick s = .next t) : Reports s t := by
  unfold execRxTick at h
  split at h
  · cases h
    exact .refl s
  · cases h
    exact missWindow_reports s
  · cases h
    exact missWindow_reports s
  · exact stopWindow_reports h

theorem reports_keptOnLine (s : State) : KeptOnLine (Reports s) where
  rxRise _ _ hs h := hs.trans (execRxRise_reports h)
  sample _ _ _ _ _ hs h := hs.trans (sample_reports h)
  rxTick _ _ hs h := hs.trans (execRxTick_reports h)
  frontEnd _ _ hs := hs.trans (.silent rfl rfl rfl)

/-! The transmit tick. -/

/-- A tick posts at most the completion, under the transmitter's handle (R118). -/
theorem execTxTick_posts (h : execTxTick s = .next t) :
    ∃ new, t.evQ = s.evQ ++ new ∧ ∀ e ∈ new, RecordOf s.cfg s.tx.txTask e := by
  rcases execTxTick_cases s with ⟨_, _, e⟩ | ⟨_, ⟨_, e⟩ | ⟨_, e⟩⟩ <;> cases e.symm.trans h
  · refine ⟨_, rfl, fun _ he => ?_⟩
    cases List.mem_singleton.mp he
    exact ⟨rfl, fun _ => rfl, Nat.zero_le _⟩
  · exact ⟨[], (List.append_nil _).symm, fun _ he => nomatch he⟩

/-- An operation that leaves the queue alone appends nothing to it. -/
theorem appends_of_eq (h : t.evQ = s.evQ) : ∃ new, t.evQ = s.evQ ++ new := ⟨[], by simp [h]⟩

/-- Settles O38: the line and the transmit tick append what they post, and no other operation but `RESET` writes the
queue. -/
theorem queueOnlyGrows : Obligations.QueueOnlyGrows := by
  intro s t i h hreset
  cases i with
  | transmit task data => exact appends_of_eq (congrArg State.evQ (execTransmit_frame h) :)
  | receive len task => exact appends_of_eq (congrArg State.evQ (execReceive_frame h) :)
  | stopReceive =>
    cases h
    exact appends_of_eq rfl
  | txTick =>
    obtain ⟨new, hq, _⟩ := execTxTick_posts h
    exact ⟨new, hq⟩
  | fadeSetup => exact appends_of_eq (congrArg State.evQ (execFadeSetup_frame h) :)
  | fadeTick ledOk =>
    cases h
    exact appends_of_eq rfl
  | reset => exact absurd rfl hreset
  | unassigned0 | unassignedA | unassignedB | unassignedC | unassignedD | unassignedE => exact nomatch h
  | _ =>
    obtain ⟨_, _, new, hq, _⟩ := (reports_keptOnLine s).exec rfl (.refl s) h
    exact ⟨new, hq⟩

/-! The records of the queue (R36). -/

/-- Both handles fit their field (R87), and every record of the queue is as R36 says. -/
def RecordsFit (s : State) : Prop :=
  s.tx.txTask < 2 ^ s.cfg.taskW ∧ s.rx.rxTask < 2 ^ s.cfg.taskW ∧ QueueSane s

/-- Records under a handle that fits its field keep the queue sane. -/
theorem QueueSane.append {task : Nat} {new : List Event} (h : QueueSane s) (hc : t.cfg = s.cfg)
    (hk : task < 2 ^ s.cfg.taskW) (hq : t.evQ = s.evQ ++ new) (hnew : ∀ e ∈ new, RecordOf s.cfg task e) :
    QueueSane t := by
  intro e he
  rw [hc]
  rw [hq] at he
  rcases List.mem_append.mp he with he | he
  · exact h e he
  · obtain ⟨rfl, hkind, hlen⟩ := hnew e he
    exact ⟨hk, hkind, hlen⟩

theorem RecordsFit.reports (h : RecordsFit s) (htx : t.tx = s.tx) (hr : Reports s t) : RecordsFit t := by
  obtain ⟨htask, hrtask, hqueue⟩ := h
  obtain ⟨hc, hk, new, hq, hnew⟩ := hr
  exact ⟨by rw [hc, htx]; exact htask, by rw [hc, hk]; exact hrtask, hqueue.append hc hrtask hq hnew⟩

theorem recordsFit_keptOnLine : KeptOnLine RecordsFit where
  rxRise _ _ hs h := hs.reports (congrArg State.tx (execFrontEvent_frame (e := .rise) h) :) (execRxRise_reports h)
  sample _ _ _ _ _ hs h := hs.reports (congrArg State.tx (sample_frame h) :) (sample_reports h)
  rxTick _ _ hs h := hs.reports (congrArg State.tx (execFrontEvent_frame (e := .tick) h) :) (execRxTick_reports h)
  frontEnd _ _ hs := hs

@[simp] theorem tickTx_txTask (c : CodecRegs) (t : Tx) : (tickTx c t).txTask = t.txTask := by
  rcases h : t.txPhase <;> simp only [tickTx, h]
  case syncSecondHalf | stop => split <;> rfl
  case dataSecondHalf =>
    split
    · split <;> rfl
    · rfl

theorem recordsFit_keptByArrivals : KeptByArrivals RecordsFit where
  toKeptOnLine := recordsFit_keptOnLine
  transmit {s _ task data} htask hs h := by
    obtain ⟨_, hrtask, hqueue⟩ := id hs
    rcases execTransmit_cases task data s with ⟨_, _, _, _, e⟩ | e <;> cases e.symm.trans h
    · exact ⟨htask, hrtask, hqueue⟩
    · exact hs
  receive {s _ len task} htask hs h := by
    obtain ⟨httask, _, hqueue⟩ := id hs
    rcases execReceive_cases len task s with ⟨_, _, _, e⟩ | e <;> cases e.symm.trans h
    · exact ⟨httask, htask, hqueue⟩
    · exact hs
  stopReceive := Preserves.next fun _ hs => hs
  txTick s t hs h := by
    obtain ⟨htask, hrtask, hqueue⟩ := hs
    obtain ⟨new, hq, hnew⟩ := execTxTick_posts h
    have hc : t.cfg = s.cfg := (congrArg State.cfg (execTxTick_frame h) :)
    have hrx : t.rx = s.rx := (congrArg State.rx (execTxTick_frame h) :)
    have htx : t.tx.txTask = s.tx.txTask := (congrArg Tx.txTask (execTxTick_tx h)).trans (tickTx_txTask _ _)
    exact ⟨by rw [hc, htx]; exact htask, by rw [hc, hrx]; exact hrtask, hqueue.append hc htask hq hnew⟩
  fadeSetup _ _ hs h := by rw [execFadeSetup_frame h]; exact hs
  fadeTick _ := Preserves.next fun _ hs => hs
  reset := Preserves.next fun _ _ =>
    ⟨Nat.mod_lt _ (Nat.two_pow_pos _), Nat.mod_lt _ (Nat.two_pow_pos _), fun _ he => nomatch he⟩
  inputs _ _ hs := hs
  hostWrite _ _ hs := hs
  hostTake := fun _ ⟨htask, hrtask, hqueue⟩ => ⟨htask, hrtask, fun e he => hqueue e (List.mem_of_mem_drop he)⟩
  hostFlush := fun _ _ ⟨htask, hrtask, hqueue⟩ => ⟨htask, hrtask, fun e he => hqueue e (List.mem_of_mem_filter he)⟩
  reconfigure _ _ _ _ hs h := by
    obtain ⟨_, _, rfl⟩ := reconfigure_eq_next.mp h
    exact hs

end Sys2Proof.Machine
end

section
/-! PROOF. Every step keeps every invariant at once. -/

namespace Sys2Proof.Machine

theorem Sane.recordsFit {s : State} (h : Sane s) : RecordsFit s := by
  obtain ⟨_, _, htask, _⟩ := h.transmitter
  obtain ⟨_, _, hrtask, _⟩ := h.receiver
  exact ⟨htask, hrtask, h.queue⟩

/-- Settles O17: each invariant is kept by every step, some of them together with a well-formed configuration. -/
theorem everyStepKeepsSane : Obligations.EveryStepKeepsSane := by
  intro s t hs h
  obtain ⟨_, _, hqueue⟩ := recordsFit_keptByArrivals.step hs.recordsFit h
  exact
    { config := configured_keptByArrivals.step hs.config h
      buffers := buffersStayCanonical s t hs.buffers h
      transmitter := transmitterStaysSane s t hs.config hs.transmitter h
      receiver := receiverStaysSane s t hs.config hs.receiver h
      fade := fadeEngineStaysSane s t hs.config hs.fade h
      halfDuplex := halfDuplex_keptByArrivals.step hs.halfDuplex h
      queue := hqueue }

end Sys2Proof.Machine
end

section
/-! PROOF. No operation moves the light from an allowed level to a forbidden one (R49, R195): the clamp answers allowed
levels, and each step of a level toward an allowed target stays allowed. -/

namespace Sys2Proof.Machine

/-- A level at which the rules may leave the light: off, or inside the limits (R49, R172). -/
def LevelAllowed (lo hi a : Level) : Prop := (a = 0 ∨ lo ≤ a) ∧ a ≤ hi

theorem not_levelForbidden_iff {f : Fade} {a : Level} :
    ¬ LevelForbidden f a ↔ LevelAllowed f.minLevel f.maxLevel a := by
  simp only [LevelForbidden, LevelAllowed, not_or, not_and_or, not_not, gt_iff_lt, BitVec.not_lt]

variable {lo hi r a : Level}

theorem levelAllowed_zero : LevelAllowed lo hi 0 := ⟨.inl rfl, by bv_omega⟩

theorem clamp_allowed (h : lo ≤ hi) (v : Level) : LevelAllowed lo hi (clamp lo hi v).1 := by
  rcases clamp_inside (v := v) h with h0 | ⟨hlo, hhi⟩
  · rw [h0]
    exact levelAllowed_zero
  · exact ⟨.inr hlo, hhi⟩

/-! The stepping loops (R171, R186). -/

/-- A step up toward an allowed target enters the limits from off, and never passes the target. -/
theorem stepUp_allowed (hr : LevelAllowed lo hi r) (ha : LevelAllowed lo hi a) (h : a < r) :
    LevelAllowed lo hi (stepUp lo a) := by
  obtain ⟨hlo, hhi⟩ := hr
  have hin : lo ≤ r := hlo.resolve_left (by bv_omega)
  have hle : stepUp lo a ≤ r := stepUp_le h hin
  refine ⟨.inr ?_, BitVec.le_trans hle hhi⟩
  unfold stepUp
  split
  case isTrue => exact BitVec.le_refl lo
  case isFalse h0 =>
    have hlow := ha.1.resolve_left h0
    bv_omega

/-- A step down leaves the limits only to off. -/
theorem stepDown_allowed (ha : LevelAllowed lo hi a) : LevelAllowed lo hi (stepDown lo a) := by
  obtain ⟨_, hhi⟩ := ha
  unfold stepDown
  split
  case isTrue => exact levelAllowed_zero
  case isFalse hlow => exact ⟨.inr (by bv_omega), by bv_omega⟩

theorem climb_allowed (hr : LevelAllowed lo hi r) (inc : Micros) : ∀ (n : Nat) {a : Level} (k : Micros),
    LevelAllowed lo hi a → LevelAllowed lo hi (climb inc lo r n a k).1
  | 0, _, _, ha => ha
  | n + 1, a, k, ha => by
    rw [climb_turn]
    split
    case isTrue hturn =>
      split
      · unfold climbInPlace
        split
        · exact hr
        · exact ha
      · exact climb_allowed hr inc n _ (stepUp_allowed hr ha hturn.2)
    case isFalse => exact ha

theorem descend_allowed (inc : Micros) (r : Level) : ∀ (n : Nat) {a : Level} (k : Micros),
    LevelAllowed lo hi a → LevelAllowed lo hi (descend inc lo r n a k).1
  | 0, _, _, ha => ha
  | n + 1, a, k, ha => by
    rw [descend_turn]
    split
    · exact descend_allowed inc r n _ (stepDown_allowed ha)
    · exact ha

theorem moveLevel_allowed (p : FadeParams) {f : Fade} (hr : LevelAllowed f.minLevel f.maxLevel f.requestedLevel)
    (ha : LevelAllowed f.minLevel f.maxLevel f.actualLevel) :
    LevelAllowed f.minLevel f.maxLevel (moveLevel p f).1 := by
  unfold moveLevel
  dsimp only
  split
  · exact climb_allowed hr _ _ _ ha
  · exact descend_allowed _ _ _ _ ha

/-! The level and the limits after a setup and after a tick. -/

/-- The light is within its limits. -/
def WithinLimits (f : Fade) : Prop := LevelAllowed f.minLevel f.maxLevel f.actualLevel

/-- The end of a tick writes neither the level nor the limits. -/
theorem stepRamp_within (p : FadeParams) {f : Fade} (hr : LevelAllowed f.minLevel f.maxLevel f.requestedLevel)
    (h : WithinLimits f) : WithinLimits (stepRamp p f) := by
  unfold stepRamp
  dsimp only
  rw [endTick_frame]
  exact moveLevel_allowed p hr h

/-- A setup leaves the light where it is, or moves it to its target at once. -/
theorem startRamp_within (p : FadeParams) {r : Level} {f : Fade} (hr : LevelAllowed f.minLevel f.maxLevel r)
    (h : WithinLimits f) : WithinLimits (startRamp p r f) := by
  rcases startRamp_cases p r f with e | ⟨_, e⟩ <;> rw [e]
  · exact hr
  · exact h

theorem setupFade_within (p : FadeParams) {f : Fade} (hlim : f.minLevel ≤ f.maxLevel) (h : WithinLimits f) :
    WithinLimits (setupFade p f) := by
  rcases hreq : f.outputChangeRequested
  · rw [setupFade_of_no_request hreq]
    exact h
  · rw [setupFade_of_request hreq]
    exact startRamp_within p (f := { f with limitError := _, requestedLevel := _ }) (clamp_allowed hlim _) h

/-- Settles O59: of the operations that write the level, a setup answers a clamped one, a tick steps toward a clamped
target, and `RESET` puts the light off. -/
theorem levelNeverForbidden : Obligations.LevelNeverForbidden := by
  intro s t i _ hlim htarget h hs
  rw [not_levelForbidden_iff] at hs ⊢
  cases i with
  | transmit task data => rw [execTransmit_frame h]; exact hs
  | receive len task => rw [execReceive_frame h]; exact hs
  | stopReceive =>
    cases h
    exact hs
  | txTick => rw [execTxTick_frame h]; exact hs
  | fadeSetup =>
    rw [execFadeSetup_frame h]
    exact setupFade_within s.cfg.fade hlim hs
  | fadeTick ledOk =>
    cases h
    show WithinLimits (if s.fade.fadeRunning then stepRamp s.cfg.fade s.fade else s.fade)
    split
    case isTrue hrun => exact stepRamp_within s.cfg.fade (not_levelForbidden_iff.mp (htarget hrun)) hs
    case isFalse => exact hs
  | reset =>
    cases h
    exact levelAllowed_zero
  | unassigned0 | unassignedA | unassignedB | unassignedC | unassignedD | unassignedE => exact nomatch h
  | _ => exact (KeptOnLine.of_frame (P := fun u => WithinLimits u.fade) fun _ _ _ _ hu => hu).exec rfl hs h

end Sys2Proof.Machine
end

section
/-! PROOF. The host's own actions (R36, R53, R76, R242), and the state after reset and after `RESET` (R50, R240). -/

namespace Sys2Proof.Machine

/-- Settles O6: the arrival at the head of the queue is run, clause by clause. -/
theorem hostActionsStep : Obligations.HostActionsStep := by
  intro s rest
  have hrun : ∀ x, s.inputs = x :: rest → step s = runInput x { s with inputs := rest } := fun _ => step_of_inputs_cons
  refine ⟨step_of_inputs_nil, fun _ => hrun _, fun _ => hrun _, fun _ => hrun _, fun _ => hrun _, fun _ => hrun _,
    fun _ => hrun _, fun _ => hrun _, fun _ => hrun _, fun _ => hrun _, fun _ => hrun _, fun htake => ?_, fun _ => hrun _⟩
  rw [hrun _ htake, ← List.drop_one]
  rfl

/-- Settles O9: each register of `State.reset`, as R50 lists it. -/
theorem stateAtReset : Obligations.StateAtReset :=
  ⟨⟨rfl, rfl, rfl, rfl, rfl, rfl⟩, ⟨rfl, rfl, rfl, rfl, rfl, rfl, rfl, rfl, rfl, rfl, rfl, rfl⟩, rfl,
    ⟨rfl, rfl, rfl, rfl, rfl, rfl, rfl, rfl, rfl, rfl, rfl, rfl, rfl, rfl, rfl⟩⟩

/-- The offered fade parameters are within the bounds of R11; every entry of their curve is 0 (log entry 2). -/
theorem fadeParams_offered_wf : FadeParams.offered.wf 8 = true := by
  simp only [FadeParams.wf, Bool.and_eq_true, decide_eq_true_eq, List.all_eq_true (p := fun v => decide (v < 2 ^ 8))]
  refine ⟨⟨⟨⟨by decide, by decide, by decide, by decide, Vector.getElem_replicate ..⟩, by decide⟩, by decide⟩, ?_⟩
  intro v hv
  rw [FadeParams.offered, Vector.toList_replicate] at hv
  rw [List.eq_of_mem_replicate hv]
  decide

/-- The parameter set of `State.reset` is well-formed (R8, R9, R11; log entry 2). -/
theorem config_start_wf : Config.start.wf = true := by
  simp only [Config.wf, Bool.and_eq_true]
  exact ⟨⟨by decide, by decide⟩, fadeParams_offered_wf⟩

/-- Settles O10: both sequencers are idle, no ramp runs, nothing waits, and the limits are those of log entry 11. -/
theorem resetStateIsSane : Obligations.ResetStateIsSane := by
  refine ⟨?_, ?_⟩
  · exact
      { config := config_start_wf
        buffers := ⟨rfl, rfl⟩
        transmitter := (txSane_of_done rfl).mpr ⟨⟨Nat.zero_le _, le_rfl, Nat.two_pow_pos _⟩, rfl⟩
        receiver := (rxSane_of_done rfl).mpr ⟨⟨Nat.zero_le _, rfl, Nat.two_pow_pos _⟩, Nat.zero_le _⟩
        fade := (fadeSane_of_idle rfl).mpr ⟨rfl, rfl, rfl⟩
        halfDuplex := fun _ => rfl
        queue := fun _ he => nomatch he }
  · unfold LimitsLegal
    decide

/-- Settles O11: every register of R50 by its value, and the free handles by their width. -/
theorem resetOperation : Obligations.ResetOperation :=
  fun _ => ⟨_, rfl, rfl, rfl, rfl, rfl, rfl, Nat.mod_lt _ (Nat.two_pow_pos _), Nat.mod_lt _ (Nat.two_pow_pos _)⟩

end Sys2Proof.Machine
end

section
/-! PROOF. Where the machine faults (R60, R67; log entry 10): each of the three transitions that reach a buffer, with
the index it does not find. -/

namespace Sys2Proof.Machine

variable {s : State} {r : Fault}

/-- The byte packer faults on a completed byte for which the buffer has no room (R146). -/
theorem pushBit_eq_fault {b : Bool} :
    pushBit b s = .fault r ↔ s.rx.rxBitCnt = 7 ∧ s.cfg.nmax ≤ s.rx.rxByte ∧ r = .noSuchIndex s.rx.rxByte := by
  rcases pushBit_cases b s with ⟨hbit, e⟩ | ⟨_, hroom, e⟩ | ⟨hbit, hfull, e⟩ <;> rw [e]
  · exact ⟨nofun, fun ⟨h, _⟩ => absurd h hbit⟩
  · simp [Nat.not_le.mpr hroom]
  · simp [hbit, hfull, eq_comm]

/-- A stop window faults where it delivers a frame longer than the buffer (R150, R158). -/
theorem stopWindow_eq_fault :
    stopWindow s = .fault r ↔
      s.rx.rxStopCnt + 1 = s.cfg.codec.nstop ∧ s.cfg.nmax < s.rx.rxLen ∧ r = .noSuchIndex s.cfg.nmax := by
  unfold stopWindow
  dsimp only
  split
  case isTrue hlast =>
    split
    case isTrue hfits => simp [Nat.not_lt.mpr hfits]
    case isFalse hlong => simp [hlast, Nat.lt_of_not_le hlong, eq_comm]
  case isFalse hmore => simp [hmore]

/-- A transmit tick faults where it reads past the buffer (R61, R118). -/
theorem execTxTick_eq_fault :
    execTxTick s = .fault r ↔
      txReads s.tx = true ∧ s.cfg.nmax ≤ s.tx.txByte ∧ r = .noSuchIndex s.tx.txByte := by
  rcases execTxTick_cases s with ⟨hreads, hpast, e⟩ | ⟨hin, ⟨_, e⟩ | ⟨_, e⟩⟩ <;> rw [e]
  · simp [hreads, hpast, eq_comm]
  all_goals
    simp only [reduceCtorEq, false_iff]
    exact fun ⟨hreads, hpast, _⟩ => hin ⟨hreads, hpast⟩

theorem txReads_iff {t : Tx} : txReads t = true ↔ t.txPhase = .dataFirstHalf ∨ t.txPhase = .dataSecondHalf := by
  simp [txReads]

/-- The samples of the data phase that push no bit are those that no rule accepts (R94, R144). -/
theorem lookup_eq_error {prev : Bool} {cOff cOn : DurClass} :
    lookup prev cOff cOn = .error ↔ EmitsNone prev cOff cOn := by
  unfold EmitsNone
  cases prev <;> cases cOff <;> cases cOn <;> decide

/-- Every action but `Error` begins with a bit, and faults where the packer does. -/
theorem applyAction_eq_fault_of_full {a : DecAction} (ha : a ≠ .error) (hbit : s.rx.rxBitCnt = 7)
    (hfull : s.cfg.nmax ≤ s.rx.rxByte) : applyAction a s = .fault (.noSuchIndex s.rx.rxByte) := by
  have hpush : ∀ b, pushBit b s = .fault (.noSuchIndex s.rx.rxByte) :=
    fun _ => pushBit_eq_fault.mpr ⟨hbit, hfull, rfl⟩
  cases a with
  | emit0 | emit1 | emit01 => exact andThen_eq_fault.mpr (.inl (hpush _))
  | error => exact absurd rfl ha

theorem execRxTick_of_stop (hp : s.rx.rxPhase = .stop) : execRxTick s = stopWindow s := by
  simp only [execRxTick, hp]

theorem sample_of_data {cOff cOn : DurClass} {a : DecAction} (hp : s.rx.rxPhase = .data) :
    sample cOff cOn a s = applyAction a (clearMiss s) := by
  simp only [sample, hp]

/-- Settles O60, one clause for each transition that reaches a buffer. -/
theorem faultsByName : Obligations.FaultsByName := by
  intro s
  refine ⟨fun hreads hpast => ?_, fun hp hlast hlong => ?_, fun off on hp hbit hfull hemits => ?_⟩
  · exact execTxTick_eq_fault.mpr ⟨txReads_iff.mpr hreads, hpast, rfl⟩
  · exact (execRxTick_of_stop hp).trans (stopWindow_eq_fault.mpr ⟨hlast, hlong, rfl⟩)
  · exact (sample_of_data hp).trans
      (applyAction_eq_fault_of_full (s := clearMiss s) (mt lookup_eq_error.mp hemits) hbit hfull)

end Sys2Proof.Machine
end

section
/-! PROOF. No step from a sane state faults (R67). A single operation reaches its buffer inside the bounds of the sane
sequencer; where one step is many operations, as in a line symbol (log entry 5), the receiver stays sane in between. -/

namespace Sys2Proof.Machine

variable {s : State}

/-! Outcomes without a fault. -/

@[simp] theorem noFault_next (s : State) : NoFault (.next s) := nofun

@[simp] theorem noFault_refused (r : Refusal) : NoFault (.refused r) := nofun

theorem NoFault.andThen {o : Host.Outcome State Fault Refusal} {f : State → Host.Outcome State Fault Refusal}
    (ho : NoFault o) (hf : ∀ s, o = .next s → NoFault (f s)) : NoFault (andThen o f) := by
  intro r h
  rcases andThen_eq_fault.mp h with h | ⟨s, hs, h⟩
  · exact ho r h
  · exact hf s hs r h

/-! The receiver (R144, R146, R150). -/

/-- In a sane data phase a byte is still to come, so the buffer has room for it (R29). -/
theorem pushBit_noFault (b : Bool) (h : RxSane s.cfg s.rx) (hp : s.rx.rxPhase = .data) : NoFault (pushBit b s) := by
  intro r hr
  obtain ⟨⟨hlen, hsum, _⟩, _, hrem, _⟩ := (rxSane_of_data hp).mp h
  obtain ⟨_, hfull, _⟩ := pushBit_eq_fault.mp hr
  omega

/-- The second bit of a sample is pushed only while the data phase lasts, in a receiver that the first left sane. -/
theorem applyAction_noFault (a : DecAction) (hc : s.cfg.wf = true) (h : RxSane s.cfg s.rx) (hp : s.rx.rxPhase = .data) :
    NoFault (applyAction a s) := by
  cases a with
  | emit0 | emit1 => exact (pushBit_noFault _ h hp).andThen fun _ _ => noFault_next _
  | emit01 =>
    refine (pushBit_noFault false h hp).andThen fun t ht => ?_
    obtain ⟨hsane, _⟩ := pushBit_sane hc h hp ht
    split
    case isTrue hdata => exact (pushBit_noFault true hsane hdata).andThen fun _ _ => noFault_next _
    case isFalse => exact noFault_next _
  | error => exact noFault_next _

theorem stopWindow_noFault (h : RxSane s.cfg s.rx) : NoFault (stopWindow s) := by
  intro r hr
  obtain ⟨hlen, _⟩ := h.bounded
  obtain ⟨_, hlong, _⟩ := stopWindow_eq_fault.mp hr
  omega

/-! What the line can bring (R81 to R83, R90, R94). -/

/-- The receive sequencer is sane under a well-formed configuration: what everything on the line needs and keeps. -/
def ReceiverSane (s : State) : Prop := s.cfg.wf = true ∧ RxSane s.cfg s.rx

theorem receiverSane_keptOnLine : KeptOnLine ReceiverSane := rxSane_keptOnLine

theorem ReceiverSane.sample (h : ReceiverSane s) (cOff cOn : DurClass) (a : DecAction) :
    NoFault (sample cOff cOn a s) := by
  obtain ⟨hc, hs⟩ := h
  rcases sample_cases cOff cOn a s with ⟨_, e⟩ | ⟨_, e⟩ | ⟨_, e⟩ | ⟨hp, e⟩ <;> rw [e]
  · exact noFault_next _
  · exact noFault_next _
  · exact noFault_next _
  · exact applyAction_noFault (s := clearMiss s) a hc (hs.withMiss (by decide) (.inr rfl)) hp

theorem execRxRise_noFault (s : State) : NoFault (execRxRise s) := by
  unfold execRxRise
  split <;> exact noFault_next _

theorem ReceiverSane.rxTick (h : ReceiverSane s) : NoFault (execRxTick s) := by
  unfold execRxTick
  split
  · exact noFault_next _
  · exact noFault_next _
  · exact noFault_next _
  · exact stopWindow_noFault h.2

theorem ReceiverSane.execFrontEvent (h : ReceiverSane s) (e : FrontEvent) : NoFault (execFrontEvent e s) := by
  cases e with
  | rise => exact execRxRise_noFault s
  | sample off on => exact h.sample _ _ _
  | tick => exact h.rxTick

theorem ReceiverSane.clockLine (h : ReceiverSane s) (level : Bool) : NoFault (clockLine level s) := by
  rcases he : (clockFrontEnd s.cfg level s.frontEnd).2 with _ | e
  · rw [clockLine_of_none he]
    exact noFault_next _
  · rw [clockLine_of_some he]
    exact (receiverSane_keptOnLine.frontEnd s _ h).execFrontEvent e

theorem ReceiverSane.holdLine (level : Bool) :
    ∀ (n : Nat) {s : State}, ReceiverSane s → NoFault (holdLine level n s)
  | 0, _, _ => noFault_next _
  | n + 1, _, h =>
    (h.clockLine level).andThen fun _ ht => holdLine level n (receiverSane_keptOnLine.clockLine level h ht)

theorem ReceiverSane.carryLevels : ∀ (ls : List Bool) {s : State}, ReceiverSane s → NoFault (carryLevels ls s)
  | [], _, _ => noFault_next _
  | l :: ls, _, h => (holdLine l _ h).andThen fun _ ht => carryLevels ls (receiverSane_keptOnLine.holdLine l _ h ht)

/-! The other operations and arrivals. -/

theorem execTransmit_noFault (task : Nat) (data : List Byte) (s : State) : NoFault (execTransmit task data s) := by
  rcases execTransmit_cases task data s with ⟨_, _, _, _, e⟩ | e <;> rw [e] <;> exact noFault_next _

theorem execReceive_noFault (len task : Nat) (s : State) : NoFault (execReceive len task s) := by
  rcases execReceive_cases len task s with ⟨_, _, _, e⟩ | e <;> rw [e] <;> exact noFault_next _

/-- A sane transmitter reads below `txLen`, which the capacity bounds (R23, R67). -/
theorem execTxTick_noFault (h : TxSane s.cfg s.tx) : NoFault (execTxTick s) := by
  intro r hr
  obtain ⟨hreads, hpast, _⟩ := execTxTick_eq_fault.mp hr
  obtain ⟨⟨hlen, _⟩, hlt⟩ := (txSane_of_data (txReads_iff.mp hreads)).mp h
  omega

theorem execFadeSetup_noFault (s : State) : NoFault (execFadeSetup s) := by
  unfold execFadeSetup
  split
  · exact noFault_refused _
  · exact noFault_next _

theorem reconfigure_noFault (codec : CodecRegs) (p : FadeParams) (s : State) : NoFault (reconfigure codec p s) := by
  unfold reconfigure
  split
  · split
    · exact noFault_next _
    · exact noFault_refused _
  · exact noFault_refused _

/-! Every step. -/

namespace Sane

theorem receiverSane (h : Sane s) : ReceiverSane s := ⟨h.config, h.receiver⟩

/-- No invariant speaks of the arrivals. -/
theorem withInputs (h : Sane s) (xs : List Input) : Sane { s with inputs := xs } :=
  ⟨h.config, h.buffers, h.transmitter, h.receiver, h.fade, h.halfDuplex, h.queue⟩

theorem exec_noFault (h : Sane s) (i : Instr) : NoFault (exec i s) := by
  cases i with
  | transmit task data => exact execTransmit_noFault task data s
  | receive len task => exact execReceive_noFault len task s
  | txTick => exact execTxTick_noFault h.transmitter
  | rxRise => exact execRxRise_noFault s
  | rxSample off on => exact h.receiverSane.sample _ _ _
  | rxTick => exact h.receiverSane.rxTick
  | fadeSetup => exact execFadeSetup_noFault s
  | stopReceive | fadeTick | reset => exact noFault_next _
  | unassigned0 | unassignedA | unassignedB | unassignedC | unassignedD | unassignedE => exact noFault_refused _
  | dataBit0 | dataBit1 | syncPair | stopHalfbit => exact ReceiverSane.carryLevels _ h.receiverSane
  | dec0 | dec1 | dec2 | dec3 | dec4 | dec5 | dec6 | dec7 => exact h.receiverSane.sample _ _ _

theorem runWord_noFault (h : Sane s) (sp : Space) (bytes : List Byte) : NoFault (runWord sp bytes s) := by
  rcases hd : decode s.cfg sp bytes with e | i
  · rw [runWord_of_decode_error hd]
    exact noFault_refused _
  · rw [runWord_of_decode_ok hd]
    exact h.exec_noFault i

theorem runInput_noFault (h : Sane s) (x : Input) : NoFault (runInput x s) := by
  cases x with
  | word sp bytes => exact h.runWord_noFault sp bytes
  | hostWrite | hostTake | hostFlush => exact noFault_next _
  | reconfigure codec p => exact reconfigure_noFault codec p s
  | lineClock level => exact h.receiverSane.clockLine level

end Sane

/-- Settles O18: whatever arrives, it runs from a state that is sane still. -/
theorem saneStatesNeverFault : Obligations.SaneStatesNeverFault := by
  intro s h
  rcases hq : s.inputs with _ | ⟨x, rest⟩
  · rw [step_of_inputs_nil hq]
    exact noFault_next s
  · rw [step_of_inputs_cons hq]
    exact (h.withInputs rest).runInput_noFault x

end Sys2Proof.Machine
end

section
/-! PROOF. The decoder undoes the encoder, and the encoder the decoder, in every space (R84, R87, R94, R97, R103; log
entry 8): a word is its code and, above it, its fields, each of which the divisions of the decoder find again. -/

namespace Sys2Proof

/-! The code and what stands above it. -/

theorem code_mod {a : Nat} (x : Nat) (ha : a < 16) : (a + 16 * x) % 16 = a := field_mod (p := 4) x ha

theorem code_div {a : Nat} (x : Nat) (ha : a < 16) : (a + 16 * x) / 16 = x := field_div (p := 4) x ha

/-- A format N word decodes where nothing stands above its code (R87). -/
theorem decodeN_eq_ok {w : Nat} {i j : Instr} : decodeN w i = .ok j ↔ w / 16 = 0 ∧ i = j := by
  unfold decodeN
  split <;> simp_all

/-! Decoding an encoded word. -/

section Fields

variable {c : Config}

theorem decodeOperation_transmit {task : Nat} {data : List Byte} (hlen : data.length < 2 ^ c.lenW)
    (htask : task < 2 ^ c.taskW) :
    decodeOperation c (encodeWord c (.transmit task data)) = .ok (.transmit task data) := by
  simp only [encodeWord, decodeOperation, code_mod _ (show 1 < 16 by decide), code_div _ (show 1 < 16 by decide),
    field_mod _ hlen, field_div _ hlen, field_mod _ htask, field_div _ htask, natOfBytes_lt, if_true,
    bytesOfNat_natOfBytes]

theorem decodeOperation_receive {len task : Nat} (hlen : len < 2 ^ c.lenW) (htask : task < 2 ^ c.taskW) :
    decodeOperation c (encodeWord c (.receive len task)) = .ok (.receive len task) := by
  simp only [encodeWord, decodeOperation, code_mod _ (show 2 < 16 by decide), code_div _ (show 2 < 16 by decide),
    field_mod _ hlen, field_div _ hlen, htask, if_true]

theorem decodeOperation_rxSample {off on : Nat} (hoff : off < 2 ^ c.durW) (hon : on < 2 ^ c.durW) :
    decodeOperation c (encodeWord c (.rxSample off on)) = .ok (.rxSample off on) := by
  simp only [encodeWord, decodeOperation, code_mod _ (show 6 < 16 by decide), code_div _ (show 6 < 16 by decide),
    field_mod _ hoff, field_div _ hoff, hon, if_true]

/-- The word of a well-formed instruction decodes to it in its space. -/
theorem decodeWord_encodeWord {i : Instr} (h : i.wellFormed c = true) :
    decodeWord c i.space (encodeWord c i) = .ok i := by
  cases i with
  | transmit task data =>
    simp only [Instr.wellFormed, decide_eq_true_eq] at h
    exact decodeOperation_transmit h.1 h.2
  | receive len task =>
    simp only [Instr.wellFormed, decide_eq_true_eq] at h
    exact decodeOperation_receive h.1 h.2
  | rxSample off on =>
    simp only [Instr.wellFormed, decide_eq_true_eq] at h
    exact decodeOperation_rxSample h.1 h.2
  | fadeTick ledOk => cases ledOk <;> simp [Instr.space, decodeWord, decodeOperation, encodeWord]
  | stopReceive | txTick | rxRise | rxTick | fadeSetup | reset =>
    simp [Instr.space, decodeWord, decodeOperation, decodeN, encodeWord]
  | unassigned0 | unassignedA | unassignedB | unassignedC | unassignedD | unassignedE =>
    simp [Instr.space, decodeWord, decodeOperation, decodeN, encodeWord]
  | dataBit0 | dataBit1 | syncPair | stopHalfbit => rfl
  | dec0 | dec1 | dec2 | dec3 | dec4 | dec5 | dec6 | dec7 => rfl

/-- The word of every well-formed instruction fits the width of its format (R87). -/
theorem encodeFits : ∀ i : Instr, Laws.EncodeFits.Statement i
  | .transmit task data => Laws.EncodeFits.transmit task data
  | .receive len task => Laws.EncodeFits.receive len task
  | .rxSample off on => Laws.EncodeFits.rxSample off on
  | .fadeTick ledOk => Laws.EncodeFits.fadeTick ledOk
  | .stopReceive => Laws.EncodeFits.stopReceive
  | .txTick => Laws.EncodeFits.txTick
  | .rxRise => Laws.EncodeFits.rxRise
  | .rxTick => Laws.EncodeFits.rxTick
  | .fadeSetup => Laws.EncodeFits.fadeSetup
  | .reset => Laws.EncodeFits.reset
  | .unassigned0 => Laws.EncodeFits.unassigned0
  | .unassignedA => Laws.EncodeFits.unassignedA
  | .unassignedB => Laws.EncodeFits.unassignedB
  | .unassignedC => Laws.EncodeFits.unassignedC
  | .unassignedD => Laws.EncodeFits.unassignedD
  | .unassignedE => Laws.EncodeFits.unassignedE
  | .dataBit0 => Laws.EncodeFits.dataBit0
  | .dataBit1 => Laws.EncodeFits.dataBit1
  | .syncPair => Laws.EncodeFits.syncPair
  | .stopHalfbit => Laws.EncodeFits.stopHalfbit
  | .dec0 => Laws.EncodeFits.dec0
  | .dec1 => Laws.EncodeFits.dec1
  | .dec2 => Laws.EncodeFits.dec2
  | .dec3 => Laws.EncodeFits.dec3
  | .dec4 => Laws.EncodeFits.dec4
  | .dec5 => Laws.EncodeFits.dec5
  | .dec6 => Laws.EncodeFits.dec6
  | .dec7 => Laws.EncodeFits.dec7

/-! What decodes is encoded. -/

/-- An operation word is the word of the operation it decodes to: no bit of it is lost (R87). -/
theorem encodeWord_of_decodeOperation {w : Nat} {i : Instr} (h : decodeOperation c w = .ok i) :
    i.space = .operation ∧ w = encodeWord c i := by
  have hword : ∀ {a}, w % 16 = a → w = a + 16 * (w / 16) := by omega
  unfold decodeOperation at h
  dsimp only at h
  split at h
  case h_2 hcode =>
    split at h
    case isTrue hdata =>
      cases h
      refine ⟨rfl, ?_⟩
      simp only [encodeWord, bytesOfNat_length, natOfBytes_bytesOfNat_of_lt hdata, Nat.mod_add_div]
      exact hword hcode
    case isFalse => cases h
  case h_3 hcode =>
    split at h <;> cases h
    refine ⟨rfl, ?_⟩
    simp only [encodeWord, Nat.mod_add_div]
    exact hword hcode
  case h_7 hcode =>
    split at h <;> cases h
    refine ⟨rfl, ?_⟩
    simp only [encodeWord, Nat.mod_add_div]
    exact hword hcode
  case h_10 hcode =>
    split at h
    case isTrue hbit =>
      cases h
      refine ⟨rfl, ?_⟩
      have hled : (decide (w / 16 = 1)).toNat = w / 16 := by
        rcases (by omega : w / 16 = 0 ∨ w / 16 = 1) with e | e <;> simp [e]
      simp only [encodeWord, hled]
      exact hword hcode
    case isFalse => cases h
  case h_16 =>
    obtain ⟨hnone, rfl⟩ := decodeN_eq_ok.mp h
    refine ⟨rfl, ?_⟩
    simp only [encodeWord, imp_false] at *
    omega
  all_goals
    obtain ⟨hnone, rfl⟩ := decodeN_eq_ok.mp h
    refine ⟨rfl, ?_⟩
    simp only [encodeWord]
    omega

/-- A word of any space is the word of the instruction it decodes to. -/
theorem encodeWord_of_decodeWord {sp : Space} {w : Nat} {i : Instr} (h : decodeWord c sp w = .ok i) :
    i.space = sp ∧ w = encodeWord c i := by
  cases sp with
  | operation => exact encodeWord_of_decodeOperation h
  | syncField | stopField =>
    simp only [decodeWord] at h
    split at h <;> cases h
    exact ⟨rfl, ‹_›⟩
  | dataField =>
    simp only [decodeWord, decodeDataSymbol] at h
    split at h <;> cases h <;> exact ⟨rfl, rfl⟩
  | sampleIndex =>
    simp only [decodeWord, decodeIndex] at h
    split at h <;> cases h <;> exact ⟨rfl, rfl⟩

end Fields

/-- Settles O1: the bytes of a word hold it, and the word decodes to its instruction. -/
theorem decodeEncodeAgree : Obligations.DecodeEncodeAgree := by
  intro c i h
  unfold decode
  rw [natOfBytes_encode (encodeFits i c h)]
  exact decodeWord_encodeWord h

/-- Settles O2: the operands of what decodes fit their fields, and its word is the one that decoded. -/
theorem decodedWordsAreEncodedWords : Obligations.DecodedWordsAreEncodedWords :=
  fun _ _ _ _ h => ⟨Machine.wellFormed_of_decode h, encodeWord_of_decodeWord h⟩

/-- Settles O3, by running the decoder on each word. -/
theorem knownWordsDecode : Obligations.KnownWordsDecode := ⟨rfl, rfl, rfl, rfl, rfl⟩

/-! The unassigned codes (R97). -/

/-- The instructions of the unassigned codes (R97). -/
def Instr.isUnassigned : Instr → Bool
  | .unassigned0 | .unassignedA | .unassignedB | .unassignedC | .unassignedD | .unassignedE => true
  | _ => false

/-- A word of an unassigned code is read as format N. -/
theorem decodeOperation_of_unassigned_code {c : Config} {w : Nat}
    (h : w % 16 = 0 ∨ (10 ≤ w % 16 ∧ w % 16 ≤ 14)) :
    ∃ i, i.isUnassigned = true ∧ decodeOperation c w = decodeN w i := by
  have hcode : w % 16 = 0 ∨ w % 16 = 10 ∨ w % 16 = 11 ∨ w % 16 = 12 ∨ w % 16 = 13 ∨ w % 16 = 14 := by omega
  unfold decodeOperation
  rcases hcode with e | e | e | e | e | e <;> rw [e] <;> exact ⟨_, rfl, rfl⟩

namespace Machine

theorem exec_of_isUnassigned {i : Instr} (h : i.isUnassigned = true) (s : State) : ∃ r, exec i s = .refused r := by
  cases i with
  | unassigned0 | unassignedA | unassignedB | unassignedC | unassignedD | unassignedE => exact ⟨_, rfl⟩
  | _ => exact nomatch h

/-- Settles O4: a word of an unassigned code is the bare code, which `exec` refuses, or the decoder refuses its excess
bits. -/
theorem unassignedCodesRefused : Obligations.UnassignedCodesRefused := by
  refine ⟨fun _ => ⟨rfl, rfl, rfl, rfl, rfl, rfl⟩, fun s bytes h => ?_⟩
  obtain ⟨i, hi, hcode⟩ := decodeOperation_of_unassigned_code (c := s.cfg) h
  have hdecode : decode s.cfg .operation bytes = decodeN (natOfBytes bytes) i := hcode
  by_cases hexcess : natOfBytes bytes / 16 = 0
  · rw [runWord_of_decode_ok (hdecode.trans (if_pos hexcess))]
    exact exec_of_isUnassigned hi s
  · rw [runWord_of_decode_error (hdecode.trans (if_neg hexcess))]
    exact ⟨_, rfl⟩

end Machine

end Sys2Proof
end

section
/-! PROOF. The clocked front end is the reference function on runs (R90, R91; log entry 18). What one clock does gives
what a whole run does: an edge in its first clock, then a tick at each multiple of `HALF_NOM` below its duration; and
the runs of a frame follow by induction over the pairs. -/

namespace Sys2Proof.Machine

variable {c : Config} {f : FrontEnd}

/-! One clock (R90). -/

theorem clockFrontEnd_rise (h : f.level = false) :
    clockFrontEnd c true f = ({ level := true, run := 0, off := longer c f.run, window := 0 }, some .rise) := by
  simp only [clockFrontEnd, h]

theorem clockFrontEnd_fall (h : f.level = true) :
    clockFrontEnd c false f =
      ({ f with level := false, run := 0, window := 0 }, some (.sample f.off (longer c f.run))) := by
  simp only [clockFrontEnd, h]

/-- A clock without an edge, in which the window timer expires. -/
theorem clockFrontEnd_tick {level : Bool} (h : f.level = level) (hw : c.codec.halfNom ≤ f.window + 1) :
    clockFrontEnd c level f = ({ f with run := longer c f.run, window := 0 }, some .tick) := by
  cases level <;> simp only [clockFrontEnd, h, if_pos hw]

/-- A clock without an edge, in which the window timer goes on. -/
theorem clockFrontEnd_quiet {level : Bool} (h : f.level = level) (hw : f.window + 1 < c.codec.halfNom) :
    clockFrontEnd c level f = ({ f with run := longer c f.run, window := f.window + 1 }, none) := by
  cases level <;> simp only [clockFrontEnd, h, if_neg (Nat.not_le.mpr hw)]

/-! A run (R90, R91). -/

theorem holdFrontEnd_succ (level : Bool) (n : Nat) :
    holdFrontEnd c level (n + 1) f =
      ((holdFrontEnd c level n (clockFrontEnd c level f).1).1,
        (clockFrontEnd c level f).2.toList ++ (holdFrontEnd c level n (clockFrontEnd c level f).1).2) := rfl

/-- The front end after `n` clocks without an edge: the duration saturates, the window timer starts again at every
tick. -/
def FrontEnd.steady (c : Config) (n : Nat) (f : FrontEnd) : FrontEnd :=
  { f with run := min (f.run + n) c.durMax, window := (f.window + n) % c.codec.halfNom }

/-- While the line keeps its level, the front end emits the ticks of its window timer alone. -/
theorem holdFrontEnd_steady {level : Bool} (n : Nat) (h : f.level = level) (hrun : f.run ≤ c.durMax)
    (hw : f.window < c.codec.halfNom) :
    holdFrontEnd c level n f = (f.steady c n, List.replicate ((f.window + n) / c.codec.halfNom) .tick) := by
  induction n generalizing f with
  | zero => simp [holdFrontEnd, FrontEnd.steady, Nat.min_eq_left hrun, Nat.mod_eq_of_lt hw, Nat.div_eq_of_lt hw]
  | succ n ih =>
    have hlonger : min (longer c f.run + n) c.durMax = min (f.run + (n + 1)) c.durMax := by
      unfold longer
      omega
    have hbound : longer c f.run ≤ c.durMax := Nat.min_le_right _ _
    rw [holdFrontEnd_succ]
    rcases Nat.lt_or_ge (f.window + 1) c.codec.halfNom with hq | ht
    · rw [clockFrontEnd_quiet h hq,
        ih (f := { f with run := longer c f.run, window := f.window + 1 }) h hbound hq]
      simp [FrontEnd.steady, hlonger, Nat.add_assoc, Nat.add_comm 1 n]
    · rw [clockFrontEnd_tick h ht,
        ih (f := { f with run := longer c f.run, window := 0 }) h hbound (Nat.zero_lt_of_lt hw)]
      have hwrap : f.window + (n + 1) = n + c.codec.halfNom := by omega
      simp [FrontEnd.steady, hlonger, hwrap, Nat.add_div_right _ (Nat.zero_lt_of_lt hw), List.replicate_succ]

/-- An on run: the rising edge, and the ticks inside the run. -/
theorem holdFrontEnd_on (n : Nat) (h : f.level = false) (hhalf : 1 ≤ c.codec.halfNom) :
    holdFrontEnd c true (n + 1) f =
      (FrontEnd.steady c n { level := true, run := 0, off := longer c f.run, window := 0 },
        .rise :: ticksIn c.codec (n + 1)) := by
  rw [holdFrontEnd_succ, clockFrontEnd_rise h,
    holdFrontEnd_steady (f := { level := true, run := 0, off := longer c f.run, window := 0 }) n rfl
      (Nat.zero_le _) hhalf]
  simp [ticksIn]

/-- An off run: the sample of the runs before it, and the ticks inside the run. -/
theorem holdFrontEnd_off (n : Nat) (h : f.level = true) (hhalf : 1 ≤ c.codec.halfNom) :
    holdFrontEnd c false (n + 1) f =
      (FrontEnd.steady c n { f with level := false, run := 0, window := 0 },
        .sample f.off (longer c f.run) :: ticksIn c.codec (n + 1)) := by
  rw [holdFrontEnd_succ, clockFrontEnd_fall h,
    holdFrontEnd_steady (f := { f with level := false, run := 0, window := 0 }) n rfl
      (Nat.zero_le _) hhalf]
  simp [ticksIn]

/-! Runs in pairs (R91). -/

theorem runFrontEnd_cons (r : Bool × Nat) (rs : List (Bool × Nat)) :
    (runFrontEnd c (r :: rs) f).2 =
      (holdFrontEnd c r.1 r.2 f).2 ++ (runFrontEnd c rs (holdFrontEnd c r.1 r.2 f).1).2 := rfl

/-- A run that does not saturate is measured as it is. -/
theorem longer_steady_run {n : Nat} (hn : n + 1 ≤ c.durMax) (hrun : f.run = 0) :
    longer c (f.steady c n).run = n + 1 := by
  simp only [longer, FrontEnd.steady, hrun]
  omega

/-- The front end over an on run and the off run after it: the events of the pair, and the measured off duration. -/
theorem runFrontEnd_pair {on off : Nat} (rs : List (Bool × Nat)) (hhalf : 1 ≤ c.codec.halfNom) (h : f.level = false)
    (hon : 1 ≤ on ∧ on ≤ c.durMax) (hoff : 1 ≤ off) :
    ∃ g : FrontEnd, g.level = false ∧ (off ≤ c.durMax → longer c g.run = off)
      ∧ (runFrontEnd c ((true, on) :: (false, off) :: rs) f).2
        = .rise :: ticksIn c.codec on ++ [.sample (longer c f.run) on] ++ ticksIn c.codec off
          ++ (runFrontEnd c rs g).2 := by
  obtain ⟨m, rfl⟩ := Nat.exists_eq_add_of_le' hon.1
  obtain ⟨n, rfl⟩ := Nat.exists_eq_add_of_le' hoff
  refine ⟨FrontEnd.steady c n { level := false, run := 0, off := longer c f.run, window := 0 }, rfl,
    fun hn => longer_steady_run hn rfl, ?_⟩
  rw [runFrontEnd_cons, runFrontEnd_cons, holdFrontEnd_on m h hhalf, holdFrontEnd_off n rfl hhalf,
    longer_steady_run hon.2 rfl]
  simp [FrontEnd.steady]

/-- The runs of a line: pairs of an on run and an off run, the last on run, and as much of the unbounded off run as
holds `trail` ticks (R91). -/
def lineRuns (c : CodecRegs) (pairs : List (Nat × Nat)) (last trail : Nat) : List (Bool × Nat) :=
  pairs.flatMap (fun q => [(true, q.1), (false, q.2)]) ++ [(true, last), (false, trail * c.halfNom + 1)]

theorem lineRuns_nil (codec : CodecRegs) (last trail : Nat) :
    lineRuns codec [] last trail = [(true, last), (false, trail * codec.halfNom + 1)] := rfl

theorem lineRuns_cons (codec : CodecRegs) (q : Nat × Nat) (pairs : List (Nat × Nat)) (last trail : Nat) :
    lineRuns codec (q :: pairs) last trail = (true, q.1) :: (false, q.2) :: lineRuns codec pairs last trail := rfl

theorem ticksIn_trail {codec : CodecRegs} (trail : Nat) (hhalf : 1 ≤ codec.halfNom) :
    ticksIn codec (trail * codec.halfNom + 1) = List.replicate trail .tick := by
  simp [ticksIn, Nat.mul_div_cancel _ hhalf]

/-- Over any pairs of runs, a front end on an idle line emits what `Capture` gives for the gap it has measured. -/
theorem runFrontEnd_eq_capturePairs {last : Nat} (trail : Nat) (hhalf : 1 ≤ c.codec.halfNom)
    (hlast : 1 ≤ last ∧ last ≤ c.durMax) {pairs : List (Nat × Nat)}
    (hpairs : ∀ q ∈ pairs, 1 ≤ q.1 ∧ q.1 ≤ c.durMax ∧ 1 ≤ q.2 ∧ q.2 ≤ c.durMax) (h : f.level = false) :
    (runFrontEnd c (lineRuns c.codec pairs last trail) f).2
      = capturePairs c.codec trail pairs (longer c f.run) last := by
  induction pairs generalizing f with
  | nil =>
    obtain ⟨_, _, _, he⟩ := runFrontEnd_pair (off := trail * c.codec.halfNom + 1) [] hhalf h hlast (by omega)
    rw [lineRuns_nil, he, ticksIn_trail trail hhalf]
    simp [capturePairs, runFrontEnd]
  | cons q pairs ih =>
    obtain ⟨⟨hon, honMax, hoff, hoffMax⟩, hrest⟩ := List.forall_mem_cons.mp hpairs
    obtain ⟨g, hg, hgap, he⟩ :=
      runFrontEnd_pair (lineRuns c.codec pairs last trail) hhalf h ⟨hon, honMax⟩ hoff
    rw [lineRuns_cons, he, ih hrest hg, hgap hoffMax]
    rfl

/-- Settles O43, the gap being the duration measured in the clock of the first rising edge. -/
theorem frontEndIsCapture : Obligations.FrontEndIsCapture :=
  fun _ _ _ _ trail hhalf hlevel hlast hlastMax hpairs =>
    runFrontEnd_eq_capturePairs trail hhalf ⟨hlast, hlastMax⟩ hpairs hlevel

end Sys2Proof.Machine
end

section
/-! PROOF. The shape of a frame (R85, R89): its length, and its runs. Sync pairs and data bits are both cells of two
half-bits, the second the complement of the first (R81, R82), so that a run spans at most one boundary between cells. -/

namespace Sys2Proof.Machine

/-! A frame is made of cells. -/

/-- A byte as its bits, the most significant first (R85). -/
def byteBits (v : Byte) : List Bool := ([7, 6, 5, 4, 3, 2, 1, 0] : List Nat).map v.getLsbD

theorem byteCells_eq (v : Byte) : byteCells v = (byteBits v).flatMap bitCell := by
  rw [byteBits, List.flatMap_map]
  rfl

/-- An even number of sync half-bits is half as many data bits 1 (R82). -/
theorem syncLevels_eq : ∀ k, syncLevels (2 * k) = (List.replicate k true).flatMap bitCell
  | 0 => rfl
  | k + 1 => by
    have hpair : syncLevels (2 * k + 1 + 1) = syncLevels (2 * k) ++ bitCell true := by
      simp [syncLevels, List.range_succ, bitCell]
    rw [Nat.mul_succ, hpair, syncLevels_eq k, List.replicate_succ', List.flatMap_append]
    rfl

/-- The bits whose cells are the sync and data part of a frame. -/
def frameBits (pairs : Nat) (d : List Byte) : List Bool := List.replicate pairs true ++ d.flatMap byteBits

theorem syncAndData_eq (pairs : Nat) (d : List Byte) :
    syncLevels (2 * pairs) ++ d.flatMap byteCells = (frameBits pairs d).flatMap bitCell := by
  rw [frameBits, List.flatMap_append, syncLevels_eq, List.flatMap_assoc, funext byteCells_eq]

/-! The runs of cells. -/

/-- Every run is of one or two half-bits, and the first, if any, is the single half-bit `b`. -/
theorem runLengths_cells (b : Bool) (bits : List Bool) :
    ∃ rs, runLengths ((b :: bits).flatMap bitCell) = (b, 1) :: rs ∧ ∀ run ∈ rs, run.2 ≤ 2 := by
  induction bits generalizing b with
  | nil => exact ⟨[(!b, 1)], by cases b <;> rfl, by simp⟩
  | cons b' bits ih =>
    obtain ⟨rs, hruns, hshort⟩ := ih b'
    have hcell : runLengths ((b :: b' :: bits).flatMap bitCell)
        = runLengths (b :: (!b) :: (b' :: bits).flatMap bitCell) := rfl
    rw [hcell, runLengths, runLengths, hruns]
    obtain rfl | rfl := Bool.eq_or_eq_not b' b
    · exact ⟨(!b', 1) :: (b', 1) :: rs, by simp, by simpa using hshort⟩
    · exact ⟨(!b, 2) :: rs, by simp, by simpa using hshort⟩

/-- Settles O50: the sync and data part is made of cells, and cells make no run longer than two. -/
theorem frameShape : Obligations.FrameShape := by
  intro c d heven
  obtain ⟨k, hk⟩ : ∃ k, c.nsync = 2 * k := ⟨c.nsync / 2, by omega⟩
  constructor
  · have hdata : (d.flatMap byteCells).length = 16 * d.length := by
      simp [List.length_flatMap, byteCells, bitCell, Nat.mul_comm]
    simp only [frame, syncLevels, List.length_append, List.length_map, List.length_range, List.length_replicate, hdata]
  · rw [hk, syncAndData_eq]
    intro run hrun
    rcases hbits : frameBits k d with _ | ⟨b, bits⟩
    · rw [hbits] at hrun
      exact nomatch hrun
    · obtain ⟨rs, hruns, hshort⟩ := runLengths_cells b bits
      rw [hbits, hruns] at hrun
      rcases List.mem_cons.mp hrun with rfl | hrun
      · exact one_le_two
      · exact hshort run hrun

end Sys2Proof.Machine
end

section
/-! PROOF. The line symbols (R81 to R83, R90; log entry 5). No front-end event reads or writes the front end, so that
carrying half-bits clock by clock is running the front end first and executing what it emitted afterwards. -/

namespace Sys2Proof.Machine

/-! The events do not see the front end (R54). -/

/-- The state with the hidden state of the front end put to `f`. -/
def State.withFrontEnd (f : FrontEnd) (s : State) : State := { s with frontEnd := f }

/-- The outcome with the hidden state of the front end put to `f`, if it is a next state. -/
def thenFrontEnd (f : FrontEnd) (o : Host.Outcome State Fault Refusal) : Host.Outcome State Fault Refusal :=
  andThen o fun t => .next (t.withFrontEnd f)

/-- A transition that neither reads nor writes the front end: putting `f` in before it or after it is the same. -/
def IgnoresFrontEnd (g : State → Host.Outcome State Fault Refusal) : Prop :=
  ∀ f s, g (s.withFrontEnd f) = thenFrontEnd f (g s)

theorem IgnoresFrontEnd.next {g : State → State} (h : ∀ f s, g (s.withFrontEnd f) = (g s).withFrontEnd f) :
    IgnoresFrontEnd fun s => .next (g s) :=
  fun f s => congrArg Host.Outcome.next (h f s)

theorem IgnoresFrontEnd.andThen {g h : State → Host.Outcome State Fault Refusal} (hg : IgnoresFrontEnd g)
    (hh : IgnoresFrontEnd h) : IgnoresFrontEnd fun s => andThen (g s) h := by
  intro f s
  dsimp only
  rw [hg f s, thenFrontEnd, thenFrontEnd, andThen_assoc, andThen_assoc]
  exact congrArg _ (funext fun t => hh f t)

theorem IgnoresFrontEnd.ite {p : State → Prop} [DecidablePred p] {g h : State → Host.Outcome State Fault Refusal}
    (hp : ∀ f s, p (s.withFrontEnd f) ↔ p s) (hg : IgnoresFrontEnd g) (hh : IgnoresFrontEnd h) :
    IgnoresFrontEnd fun s => if p s then g s else h s := by
  intro f s
  simp only [hp f s, hg f s, hh f s, apply_ite (thenFrontEnd f)]

theorem noteEdge_withFrontEnd (f : FrontEnd) (s : State) :
    noteEdge (s.withFrontEnd f) = (noteEdge s).withFrontEnd f := by
  simp only [noteEdge, apply_ite (State.withFrontEnd f)]
  rfl

theorem syncSample_withFrontEnd (cOff cOn : DurClass) (f : FrontEnd) (s : State) :
    syncSample cOff cOn (s.withFrontEnd f) = (syncSample cOff cOn s).withFrontEnd f := by
  simp only [syncSample, apply_ite (State.withFrontEnd f)]
  rfl

theorem missWindow_withFrontEnd (f : FrontEnd) (s : State) :
    missWindow (s.withFrontEnd f) = (missWindow s).withFrontEnd f := by
  simp only [missWindow, apply_ite (State.withFrontEnd f)]
  rfl

theorem pushBit_ignoresFrontEnd (b : Bool) : IgnoresFrontEnd (pushBit b) := by
  intro f s
  rcases pushBit_cases b s with ⟨hbit, e⟩ | ⟨hbit, hroom, e⟩ | ⟨hbit, hfull, e⟩ <;> rw [e]
  · exact pushBit_short (s := s.withFrontEnd f) hbit
  · exact pushBit_full (s := s.withFrontEnd f) hbit hroom
  · exact (pushBit_eq_fault (s := s.withFrontEnd f)).mpr ⟨hbit, hfull, rfl⟩

theorem stopWindow_ignoresFrontEnd : IgnoresFrontEnd stopWindow :=
  .ite (fun _ _ => Iff.rfl) (.ite (fun _ _ => Iff.rfl) (.next fun _ _ => rfl) fun _ _ => rfl) (.next fun _ _ => rfl)

theorem applyAction_ignoresFrontEnd (a : DecAction) : IgnoresFrontEnd (applyAction a) := by
  have hpush : ∀ b, IgnoresFrontEnd fun s => andThen (pushBit b s) fun t => .next (setPrev b t) := fun b =>
    (pushBit_ignoresFrontEnd b).andThen (.next fun _ _ => rfl)
  cases a with
  | emit0 | emit1 => exact hpush _
  | emit01 =>
    exact (pushBit_ignoresFrontEnd false).andThen (.ite (fun _ _ => Iff.rfl) (hpush true) (.next fun _ _ => rfl))
  | error => exact .next fun _ _ => rfl

theorem sample_ignoresFrontEnd (cOff cOn : DurClass) (a : DecAction) : IgnoresFrontEnd (sample cOff cOn a) := by
  intro f s
  have hphase : (s.withFrontEnd f).rx.rxPhase = s.rx.rxPhase := rfl
  unfold sample
  rw [hphase, noteEdge_withFrontEnd]
  cases s.rx.rxPhase with
  | done | stop => rfl
  | sync => exact congrArg Host.Outcome.next (syncSample_withFrontEnd cOff cOn f (clearMiss (noteEdge s)))
  | data => exact applyAction_ignoresFrontEnd a f (clearMiss s)

theorem execFrontEvent_ignoresFrontEnd (e : FrontEvent) : IgnoresFrontEnd (execFrontEvent e) := by
  intro f s
  have hphase : (s.withFrontEnd f).rx.rxPhase = s.rx.rxPhase := rfl
  cases e with
  | rise =>
    simp only [execFrontEvent, execRxRise]
    rw [hphase, noteEdge_withFrontEnd]
    cases s.rx.rxPhase <;> rfl
  | sample off on => exact sample_ignoresFrontEnd _ _ _ f s
  | tick =>
    simp only [execFrontEvent, execRxTick]
    rw [hphase, missWindow_withFrontEnd, stopWindow_ignoresFrontEnd f s]
    cases s.rx.rxPhase <;> rfl

theorem execFrontEvents_ignoreFrontEnd : ∀ es, IgnoresFrontEnd (execFrontEvents es)
  | [] => .next fun _ _ => rfl
  | e :: es => (execFrontEvent_ignoresFrontEnd e).andThen (execFrontEvents_ignoreFrontEnd es)

/-! The front end first, the events afterwards. -/

/-- Events leave the configuration and the front end as they are. -/
theorem execFrontEvents_keeps {es : List FrontEvent} {s t : State} (h : execFrontEvents es s = .next t) :
    t.cfg = s.cfg ∧ t.frontEnd = s.frontEnd := by
  induction es generalizing s with
  | nil =>
    cases h
    exact ⟨rfl, rfl⟩
  | cons e es ih =>
    obtain ⟨u, hu, ht⟩ := andThen_eq_next.mp h
    obtain ⟨hcfg, hfront⟩ := ih ht
    rw [hcfg, hfront, execFrontEvent_frame hu]
    exact ⟨rfl, rfl⟩

/-- The front end's part of a transition: it ends in `p.1` and what it emitted, `p.2`, is executed. -/
def emits (p : FrontEnd × List FrontEvent) (s : State) : Host.Outcome State Fault Refusal :=
  execFrontEvents p.2 (s.withFrontEnd p.1)

/-- Where the front end runs twice, both its parts may run before the events of either. -/
theorem emits_andThen {p : FrontEnd × List FrontEvent} {q : Config → FrontEnd → FrontEnd × List FrontEvent}
    (s : State) :
    andThen (emits p s) (fun t => emits (q t.cfg t.frontEnd) t) =
      emits ((q s.cfg p.1).1, p.2 ++ (q s.cfg p.1).2) s := by
  have hlater : execFrontEvents p.2 (s.withFrontEnd (q s.cfg p.1).1)
      = thenFrontEnd (q s.cfg p.1).1 (execFrontEvents p.2 (s.withFrontEnd p.1)) :=
    execFrontEvents_ignoreFrontEnd p.2 _ (s.withFrontEnd p.1)
  unfold emits
  dsimp only
  rw [execFrontEvents_append, hlater]
  rcases he : execFrontEvents p.2 (s.withFrontEnd p.1) with t | r | r
  · obtain ⟨hcfg, hfront⟩ := execFrontEvents_keeps he
    simp only [thenFrontEnd, andThen_next, hcfg, hfront]
    rfl
  · rfl
  · rfl

theorem holdLine_eq_emits (level : Bool) (n : Nat) (s : State) :
    holdLine level n s = emits (holdFrontEnd s.cfg level n s.frontEnd) s := by
  induction n generalizing s with
  | zero => rfl
  | succ n ih =>
    have hclock : clockLine level s = emits
        ((clockFrontEnd s.cfg level s.frontEnd).1, (clockFrontEnd s.cfg level s.frontEnd).2.toList) s :=
      clockLine_eq level s
    rw [holdLine, hclock, funext ih]
    exact emits_andThen (q := fun c f => holdFrontEnd c level n f) s

theorem carryLevels_eq_emits (halves : List Bool) (s : State) :
    carryLevels halves s =
      emits (runFrontEnd s.cfg (halves.map fun l => (l, s.cfg.codec.halfNom)) s.frontEnd) s := by
  induction halves generalizing s with
  | nil => rfl
  | cons l ls ih =>
    rw [carryLevels, holdLine_eq_emits, funext ih]
    exact emits_andThen (q := fun c f => runFrontEnd c (ls.map fun l => (l, c.codec.halfNom)) f) s

/-- Settles O44: a symbol carries its half-bits, and carrying them executes the front end's events. -/
theorem lineSymbolsAreTheirEvents : Obligations.LineSymbolsAreTheirEvents := by
  rintro s i halves (⟨rfl, rfl⟩ | ⟨rfl, rfl⟩ | ⟨rfl, rfl⟩ | ⟨rfl, rfl⟩)
  all_goals exact carryLevels_eq_emits _ s

end Sys2Proof.Machine
end

section
/-! PROOF. Every line symbol runs in a sane receiver (R81 to R83, R90; log entry 5). What an event needs to go on is
room in the buffer for the bytes still to come (R29), and every event keeps that room under any codec registers. -/

namespace Sys2Proof.Machine

variable {s : State}

/-! Room for the bytes still to come. -/

/-- The frame fits the buffer, and until the stop phase some byte of it is still to come (R29, R67). -/
def HasRoom (s : State) : Prop :=
  s.rx.rxLen ≤ s.cfg.nmax ∧ s.rx.rxByte + s.rx.rxRemain = s.rx.rxLen
    ∧ (s.rx.rxPhase = .sync ∨ s.rx.rxPhase = .data → 0 < s.rx.rxRemain)

theorem RxSane.hasRoom (h : RxSane s.cfg s.rx) : HasRoom s := by
  obtain ⟨hlen, hsum, _⟩ := h.bounded
  refine ⟨hlen, hsum, fun hp => ?_⟩
  rcases hp with hp | hp
  · obtain ⟨_, ⟨hpos, _⟩, hbyte, _⟩ := (rxSane_of_sync hp).mp h
    omega
  · obtain ⟨_, _, hrem, _⟩ := (rxSane_of_data hp).mp h
    exact hrem

/-- Room rests on four registers and the capacity, and is not lost by leaving the sync or data phase. -/
theorem HasRoom.of_eq {t : State} (h : HasRoom s) (hn : t.cfg.nmax = s.cfg.nmax) (hlen : t.rx.rxLen = s.rx.rxLen)
    (hbyte : t.rx.rxByte = s.rx.rxByte) (hrem : t.rx.rxRemain = s.rx.rxRemain)
    (hp : t.rx.rxPhase = .sync ∨ t.rx.rxPhase = .data → s.rx.rxPhase = .sync ∨ s.rx.rxPhase = .data) : HasRoom t := by
  obtain ⟨hfits, hsum, hmore⟩ := h
  unfold HasRoom
  rw [hn, hlen, hbyte, hrem]
  exact ⟨hfits, hsum, fun h => hmore (hp h)⟩

theorem HasRoom.abort {cause : RxCause} (h : HasRoom s) : HasRoom (abort cause s) :=
  h.of_eq rfl rfl rfl rfl (by simp)

/-- In the data phase the packer goes on, and leaves room for what is still to come (R146). -/
theorem HasRoom.pushBit (b : Bool) (h : HasRoom s) (hp : s.rx.rxPhase = .data) :
    ∃ t, pushBit b s = .next t ∧ HasRoom t := by
  obtain ⟨hfits, hsum, hmore⟩ := id h
  have hrem := hmore (.inr hp)
  rcases pushBit_cases b s with ⟨_, e⟩ | ⟨_, _, e⟩ | ⟨_, hfull, _⟩
  · exact ⟨_, e, h⟩
  · obtain ⟨_, _, hbyte', hrem', _, hphase', _⟩ := storeByte_fields (shiftIn s.rx.rxShift b) s.rx
    obtain ⟨hlen', _⟩ := storeByte_keeps (shiftIn s.rx.rxShift b) s.rx
    refine ⟨_, e, hlen'.trans_le hfits, by simp only [hbyte', hrem', hlen']; omega, fun hnext => ?_⟩
    simp only [hphase', hrem'] at hnext ⊢
    by_contra hlast
    simp [Nat.eq_zero_of_not_pos hlast] at hnext
  · omega

theorem HasRoom.applyAction (a : DecAction) (h : HasRoom s) (hp : s.rx.rxPhase = .data) :
    ∃ t, applyAction a s = .next t ∧ HasRoom t := by
  cases a with
  | emit0 | emit1 =>
    obtain ⟨t, ht, hroom⟩ := h.pushBit _ hp
    exact ⟨_, andThen_eq_next.mpr ⟨t, ht, rfl⟩, hroom⟩
  | emit01 =>
    obtain ⟨t, ht, hroom⟩ := h.pushBit false hp
    by_cases hdata : t.rx.rxPhase = .data
    · obtain ⟨u, hu, hroom⟩ := hroom.pushBit true hdata
      exact ⟨_, andThen_eq_next.mpr ⟨t, ht, (if_pos hdata).trans (andThen_eq_next.mpr ⟨u, hu, rfl⟩)⟩, hroom⟩
    · exact ⟨_, andThen_eq_next.mpr ⟨t, ht, if_neg hdata⟩, hroom.abort⟩
  | error => exact ⟨_, rfl, h.abort⟩

theorem HasRoom.edge (h : HasRoom s) : HasRoom (clearMiss (noteEdge s)) :=
  h.of_eq (by simp) (by simp) (by simp) (by simp) (by simp)

theorem HasRoom.syncSample (cOff cOn : DurClass) (h : HasRoom s) (hp : s.rx.rxPhase = .sync) :
    HasRoom (syncSample cOff cOn s) := by
  unfold Machine.syncSample
  dsimp only
  split
  · exact h.of_eq rfl rfl rfl rfl fun _ => .inl hp
  · exact h.abort

theorem HasRoom.sample (cOff cOn : DurClass) (a : DecAction) (h : HasRoom s) :
    ∃ t, sample cOff cOn a s = .next t ∧ HasRoom t := by
  rcases sample_cases cOff cOn a s with ⟨_, e⟩ | ⟨_, e⟩ | ⟨hp, e⟩ | ⟨hp, e⟩ <;> rw [e]
  · exact ⟨_, rfl, h⟩
  · exact ⟨_, rfl, h.abort⟩
  · exact ⟨_, rfl, h.edge.syncSample cOff cOn (by simpa using hp)⟩
  · exact HasRoom.applyAction (s := clearMiss s) a h hp

theorem HasRoom.missWindow (h : HasRoom s) : HasRoom (missWindow s) := by
  rcases missWindow_cases s with e | e | e <;> rw [e]
  · exact h
  · exact h
  · exact HasRoom.abort (s := { s with rx := { s.rx with rxMiss := s.rx.rxMiss + 1 } }) h

theorem HasRoom.stopWindow (h : HasRoom s) : ∃ t, stopWindow s = .next t ∧ HasRoom t := by
  obtain ⟨hfits, _⟩ := id h
  rcases stopWindow_cases s with e | e | e
  · obtain ⟨_, hlong, _⟩ := stopWindow_eq_fault.mp e
    omega
  · exact ⟨_, e, h⟩
  · exact ⟨_, e, h.of_eq rfl rfl rfl rfl (by simp)⟩

/-- Every front-end event runs where there is room, and leaves room. -/
theorem HasRoom.execFrontEvent (e : FrontEvent) (h : HasRoom s) : ∃ t, execFrontEvent e s = .next t ∧ HasRoom t := by
  cases e with
  | rise =>
    simp only [Machine.execFrontEvent, execRxRise]
    split
    · exact ⟨_, rfl, h⟩
    · exact ⟨_, rfl, h.abort⟩
    · exact ⟨_, rfl, h.edge⟩
    · exact ⟨_, rfl, h.edge⟩
  | sample off on => exact h.sample _ _ _
  | tick =>
    simp only [Machine.execFrontEvent, execRxTick]
    split
    · exact ⟨_, rfl, h⟩
    · exact ⟨_, rfl, h.missWindow⟩
    · exact ⟨_, rfl, h.missWindow⟩
    · exact h.stopWindow

theorem HasRoom.execFrontEvents (es : List FrontEvent) (h : HasRoom s) :
    ∃ t, execFrontEvents es s = .next t ∧ HasRoom t := by
  induction es generalizing s with
  | nil => exact ⟨s, rfl, h⟩
  | cons e es ih =>
    obtain ⟨t, ht, hroom⟩ := h.execFrontEvent e
    obtain ⟨u, hu, hlast⟩ := ih hroom
    exact ⟨u, andThen_eq_next.mpr ⟨t, ht, hu⟩, hlast⟩

theorem HasRoom.emits (p : FrontEnd × List FrontEvent) (h : HasRoom s) : ∃ t, emits p s = .next t ∧ HasRoom t :=
  HasRoom.execFrontEvents (s := s.withFrontEnd p.1) p.2 h

theorem HasRoom.carryLevels (halves : List Bool) (h : HasRoom s) : ∃ t, carryLevels halves s = .next t := by
  rw [carryLevels_eq_emits]
  obtain ⟨t, ht, _⟩ := h.emits (runFrontEnd s.cfg (halves.map fun l => (l, s.cfg.codec.halfNom)) s.frontEnd)
  exact ⟨t, ht⟩

/-! What a line symbol writes. -/

/-- The line reaches the receiver, the queue and the front end of a state alone. -/
theorem writes_keptOnLine (s : State) :
    KeptOnLine fun t => t = { s with rx := t.rx, evQ := t.evQ, frontEnd := t.frontEnd } :=
  .of_frame fun t _ _ _ ht => by rw [ht]

theorem sample_of_done {cOff cOn : DurClass} {a : DecAction} (hp : s.rx.rxPhase = .done) :
    sample cOff cOn a s = .next s := by
  simp only [sample, hp]

theorem execFrontEvent_of_done (e : FrontEvent) (hp : s.rx.rxPhase = .done) : execFrontEvent e s = .next s := by
  cases e with
  | rise => simp only [execFrontEvent, execRxRise, hp]
  | sample off on => exact sample_of_done hp
  | tick => simp only [execFrontEvent, execRxTick, hp]

/-- With the receiver disabled the line reaches the front end alone (R220). -/
theorem disabled_writes_keptOnLine (hd : s.rx.rxPhase = .done) :
    KeptOnLine fun t => t = { s with frontEnd := t.frontEnd } := by
  have hidle : ∀ {g : State → Host.Outcome State Fault Refusal}, (∀ {t}, t.rx.rxPhase = .done → g t = .next t) →
      Preserves (fun t => t = { s with frontEnd := t.frontEnd }) g := by
    intro g hg t u ht h
    have hp : t.rx.rxPhase = .done := by rw [ht]; exact hd
    cases (hg hp).symm.trans h
    exact ht
  exact
    { rxRise := hidle (execFrontEvent_of_done .rise)
      rxTick := hidle (execFrontEvent_of_done .tick)
      sample := fun _ _ _ => hidle sample_of_done
      frontEnd := fun _ _ ht => by rw [ht] }

/-- Settles O45: the events of a symbol run one after the other, and each writes what the line can reach. -/
theorem lineSymbolsComplete : Obligations.LineSymbolsComplete := by
  intro s i hi _ hs
  obtain ⟨halves, hline, hexec⟩ : ∃ halves, Instr.isLineEvent i = true ∧ exec i s = carryLevels halves s := by
    rcases hi with rfl | rfl | rfl | rfl <;> exact ⟨_, rfl, rfl⟩
  obtain ⟨t, ht⟩ := hs.hasRoom.carryLevels halves
  have hnext : exec i s = .next t := hexec.trans ht
  exact ⟨t, hnext, (writes_keptOnLine s).exec hline rfl hnext,
    fun hd => (disabled_writes_keptOnLine hd).exec hline rfl hnext⟩

end Sys2Proof.Machine
end

section
/-! PROOF. The decode table (R93, R94) and what a sample does in the data phase (R144, R146): through the table by its
classes, or as an entry of the table (log entry 6), it packs the bits of one action. -/

namespace Sys2Proof.Machine

variable {s : State}

/-! The table and its index. -/

theorem decIndex_invalid (prev : Bool) (c : DurClass) :
    decIndex prev .invalid c = none ∧ decIndex prev c .invalid = none := by
  cases c <;> exact ⟨rfl, rfl⟩

/-- Settles O49, row by row. -/
theorem decodeTableEntries : Obligations.DecodeTableEntries :=
  ⟨⟨rfl, rfl⟩, ⟨rfl, rfl⟩, ⟨rfl, rfl⟩, ⟨rfl, rfl⟩, ⟨rfl, rfl⟩, ⟨rfl, rfl⟩, ⟨rfl, rfl⟩, ⟨rfl, rfl⟩,
    decIndex_invalid, rfl, rfl, rfl, rfl⟩

/-- An index gives back the classes it was formed from. -/
theorem classes_of_decIndex {prev : Bool} {cOff cOn : DurClass} {k : BitVec 3} (h : decIndex prev cOff cOn = some k) :
    indexOff k = cOff ∧ indexOn k = cOn := by
  cases prev <;> cases cOff <;> cases cOn <;> cases h <;> exact ⟨rfl, rfl⟩

theorem lookup_of_decIndex {prev : Bool} {cOff cOn : DurClass} {k : BitVec 3} (h : decIndex prev cOff cOn = some k) :
    lookup prev cOff cOn = decTable k := by
  simp only [lookup, h]

/-- The action of a sample counts in the data phase alone (R144). -/
theorem sample_of_not_data {cOff cOn : DurClass} (a b : DecAction) (hp : s.rx.rxPhase ≠ .data) :
    sample cOff cOn a s = sample cOff cOn b s := by
  unfold sample
  split
  case h_4 hdata => exact absurd hdata hp
  all_goals rfl

/-- An instruction that an index decodes to is the entry of that index. -/
theorem exec_of_decodeIndex {k : BitVec 3} {i : Instr} (h : decodeIndex k.toNat = .ok i) (s : State) :
    exec i s = sampleEntry k s := by
  have hk : BitVec.ofNat 3 k.toNat = k := by simp
  unfold decodeIndex at h
  split at h <;> cases h
  all_goals
    rename_i hw
    rw [hw] at hk
    subst hk
    rfl

/-- Settles O46: the entry of an index is a sample of its classes and its action, which outside the data phase does not
count. -/
theorem decEntriesAreSamples : Obligations.DecEntriesAreSamples := by
  intro s off on prev k i hk hi hprev
  obtain ⟨hoff, hon⟩ := classes_of_decIndex hk
  rw [exec_of_decodeIndex hi]
  show sample (indexOff k) (indexOn k) (decTable k) s = execRxSample off on s
  rw [hoff, hon]
  rcases hprev with rfl | hp
  · rw [← lookup_of_decIndex hk]
    rfl
  · exact sample_of_not_data _ _ hp

/-! The packer (R146). -/

theorem packed_short {n : Nat} {b : Bool} {r : Rx} (h : r.rxBitCnt ≠ 7) :
    Packed n b r { r with rxShift := shiftIn r.rxShift b, rxBitCnt := r.rxBitCnt + 1 } :=
  ⟨rfl, rfl, rfl, rfl, rfl, rfl, rfl, fun _ => ⟨rfl, rfl, rfl, rfl, rfl, rfl⟩, fun hfull => absurd hfull h⟩

theorem packed_full {n : Nat} {b : Bool} {r : Rx} (h : r.rxBitCnt = 7) :
    Packed n b r (storeByte (shiftIn r.rxShift b) r) := by
  obtain ⟨hshift, hbuf, hbyte, hrem, hbit, hphase, hstop⟩ := storeByte_fields (shiftIn r.rxShift b) r
  obtain ⟨hlen, _, hcnt, hmiss, hseen, htask, hcause⟩ := storeByte_keeps (shiftIn r.rxShift b) r
  refine ⟨hshift, hlen, hcnt, hmiss, hseen, htask, hcause, fun hshort => absurd h hshort, fun _ =>
    ⟨hbit, hbyte, hrem, fun hwf => ?_, fun j hj => ?_, fun hlast => ?_, fun hmore => ?_⟩⟩
  · rw [hbuf, hshift]
    exact Memory.read_write_same hwf
  · rw [hbuf]
    exact Memory.read_write_other hj.symm _
  · rw [hrem] at hlast
    exact ⟨hphase.trans (if_pos hlast), hstop.trans (if_pos hlast)⟩
  · rw [hrem] at hmore
    exact ⟨hphase.trans (if_neg hmore), hstop.trans (if_neg hmore)⟩

/-- Where a completed byte has room, the packer takes the bit as R146 says, and leaves the previous bit alone. -/
theorem pushBit_packed (b : Bool) (h : s.rx.rxBitCnt = 7 → s.rx.rxByte < s.cfg.nmax) :
    ∃ r, pushBit b s = .next { s with rx := r } ∧ Packed s.cfg.nmax b s.rx r ∧ r.rxPrev = s.rx.rxPrev := by
  by_cases hbit : s.rx.rxBitCnt = 7
  · obtain ⟨_, hprev, _⟩ := storeByte_keeps (shiftIn s.rx.rxShift b) s.rx
    exact ⟨_, pushBit_full hbit (h hbit), packed_full hbit, hprev⟩
  · exact ⟨_, pushBit_short hbit, packed_short hbit, rfl⟩

/-- After a packed bit the next one has room: either the byte has just begun, or its index is still the same. -/
theorem Packed.room {n : Nat} {b : Bool} {r r' : Rx} (h : Packed n b r r') (hroom : r.rxByte < n)
    (hbit' : r'.rxBitCnt = 7) : r'.rxByte < n := by
  obtain ⟨_, _, _, _, _, _, _, hshort, hfull⟩ := h
  by_cases hbit : r.rxBitCnt = 7
  · obtain ⟨hzero, _⟩ := hfull hbit
    exact nomatch hzero.symm.trans hbit'
  · obtain ⟨_, _, hbyte, _⟩ := hshort hbit
    omega

theorem Packed.rxTask {n : Nat} {b : Bool} {r r' : Rx} (h : Packed n b r r') : r'.rxTask = r.rxTask := by
  obtain ⟨_, _, _, _, _, htask, _⟩ := h
  exact htask

/-! The actions of a sample in the data phase (R94, R144). -/

/-- The outcome of a sample that emits one bit: it is packed and becomes the previous bit. -/
def PacksBit (b : Bool) (s : State) (o : Host.Outcome State Fault Refusal) : Prop :=
  ∃ t, o = .next t ∧ t = { s with rx := t.rx } ∧ Packed s.cfg.nmax b { s.rx with rxMiss := 0 } t.rx ∧ t.rx.rxPrev = b

/-- The outcome of a sample that emits 0 then 1: both are packed, or the 1 aborts where the 0 ended the data phase. -/
def PacksZeroOne (s : State) (o : Host.Outcome State Fault Refusal) : Prop :=
  ∃ t mid, o = .next t ∧ Packed s.cfg.nmax false { s.rx with rxMiss := 0 } mid
    ∧ (mid.rxPhase = .data → t = { s with rx := t.rx } ∧ Packed s.cfg.nmax true mid t.rx ∧ t.rx.rxPrev = true)
    ∧ (mid.rxPhase ≠ .data →
        t = { s with rx := { mid with rxPrev := s.rx.rxPrev, rxCause := .frameTimingError, rxPhase := .done }
                     evQ := s.evQ ++ [⟨s.rx.rxTask, .recvError, []⟩] })

/-- The action that emits one bit. -/
def bitAction (b : Bool) : DecAction := if b then .emit1 else .emit0

theorem applyAction_bitAction (b : Bool) (s : State) :
    applyAction (bitAction b) s = andThen (pushBit b s) fun t => .next (setPrev b t) := by
  cases b <;> rfl

section Data

variable {cOff cOn : DurClass} (hp : s.rx.rxPhase = .data)
include hp

theorem sample_packsBit (b : Bool) (hroom : s.rx.rxByte < s.cfg.nmax) :
    PacksBit b s (sample cOff cOn (bitAction b) s) := by
  obtain ⟨r, hr, hpacked, _⟩ := pushBit_packed b (s := clearMiss s) fun _ => hroom
  rw [sample_of_data hp, applyAction_bitAction, hr]
  exact ⟨_, rfl, rfl, hpacked, rfl⟩

theorem sample_packsZeroOne (hroom : s.rx.rxByte < s.cfg.nmax) : PacksZeroOne s (sample cOff cOn .emit01 s) := by
  obtain ⟨mid, hmid, hpacked, hprev⟩ := pushBit_packed false (s := clearMiss s) fun _ => hroom
  rw [sample_of_data hp, applyAction, hmid, andThen_next]
  by_cases hdata : mid.rxPhase = .data
  · obtain ⟨r, hr, hpacked', _⟩ := pushBit_packed true (s := { clearMiss s with rx := mid }) (hpacked.room hroom)
    rw [if_pos hdata, hr]
    exact ⟨_, mid, rfl, hpacked, fun _ => ⟨rfl, hpacked', rfl⟩, fun hne => absurd hdata hne⟩
  · rw [if_neg hdata]
    refine ⟨_, mid, rfl, hpacked, fun he => absurd he hdata, fun _ => ?_⟩
    have htask : mid.rxTask = s.rx.rxTask := hpacked.rxTask
    have hprev : mid.rxPrev = s.rx.rxPrev := hprev
    rw [← htask, ← hprev]
    rfl

/-- An `Error` entry aborts, with no bit packed. -/
theorem sample_error :
    sample cOff cOn .error s =
      .next { s with rx := { s.rx with rxMiss := 0, rxCause := .frameTimingError, rxPhase := .done }
                     evQ := s.evQ ++ [⟨s.rx.rxTask, .recvError, []⟩] } := by
  rw [sample_of_data hp]
  rfl

end Data

/-- The samples that emit two bits are those of the two entries `Emit01` (R94). -/
theorem lookup_eq_emit01 {prev : Bool} {cOff cOn : DurClass} :
    lookup prev cOff cOn = .emit01 ↔ EmitsTwo prev cOff cOn := by
  unfold EmitsTwo
  cases prev <;> cases cOff <;> cases cOn <;> decide

/-- Settles O31: each of the three entries is the action of its bit. -/
theorem sampleEmitsOneBit : Obligations.SampleEmitsOneBit := by
  intro s off on b hp hroom hclasses
  have haction : lookup s.rx.rxPrev (classify s.cfg.codec off) (classify s.cfg.codec on) = bitAction b := by
    rcases hclasses with ⟨hprev, hoff, hon, rfl⟩ | ⟨hprev, hoff, hon, rfl⟩ | ⟨hprev, hoff, hon, rfl⟩ <;>
      rw [hprev, hoff, hon] <;> rfl
  show PacksBit b s (execRxSample off on s)
  rw [execRxSample, haction]
  exact sample_packsBit hp b hroom

/-- Settles O32: both entries are the action `Emit01`. -/
theorem sampleEmitsTwoBits : Obligations.SampleEmitsTwoBits := by
  intro s off on hp hroom hclasses
  show PacksZeroOne s (execRxSample off on s)
  rw [execRxSample, lookup_eq_emit01.mpr hclasses]
  exact sample_packsZeroOne hp hroom

/-- Settles O47: the action of each entry, as the table gives it. -/
theorem decEntriesComplete : Obligations.DecEntriesComplete := by
  intro s i hp hroom
  refine ⟨?_, ?_, ?_, ?_⟩
  · rintro (rfl | rfl) <;> exact sample_packsBit hp false hroom
  · rintro rfl
    exact sample_packsBit hp true hroom
  · rintro (rfl | rfl) <;> exact sample_packsZeroOne hp hroom
  · rintro (rfl | rfl | rfl) <;> exact sample_error hp

end Sys2Proof.Machine
end

section
/-! PROOF. The transmit commands and the transmit tick, phase by phase (R112, R114, R118), and the arcs of the transmit
sequencer (R127). -/

namespace Sys2Proof.Machine

variable {s : State}

/-! The bytes of a command (R112). -/

/-- A command's bytes stand at the start of a canonical buffer. -/
theorem Memory.read_writeBytes_start {n i : Nat} {m : Memory} {d : List Byte} (h : Memory.wf n m = true)
    (hd : d.length ≤ n) (hi : i < d.length) : Memory.read (Memory.writeBytes m 0 d) i = d[i] := by
  have hread := Memory.read_writeBytes_inside (i := 0) hi (by omega) h
  rwa [Nat.zero_add] at hread

/-! The two commands (R114, R136, R218; log entry 3). -/

theorem execTransmit_of_accepted {task : Nat} {data : List Byte}
    (h : s.tx.txPhase = .done ∧ s.rx.rxPhase = .done ∧ 1 ≤ data.length ∧ data.length ≤ s.cfg.nmax) :
    execTransmit task data s = .next { s with tx := armTransmit task data s.tx } :=
  if_pos (decide_eq_true h)

theorem execTransmit_of_refused {task : Nat} {data : List Byte}
    (h : ¬ (s.tx.txPhase = .done ∧ s.rx.rxPhase = .done ∧ 1 ≤ data.length ∧ data.length ≤ s.cfg.nmax)) :
    execTransmit task data s = .next s :=
  if_neg (mt of_decide_eq_true h)

theorem execReceive_of_refused {len task : Nat}
    (h : ¬ (s.tx.txPhase = .done ∧ 1 ≤ len ∧ len ≤ s.cfg.nmax)) : execReceive len task s = .next s :=
  if_neg (mt of_decide_eq_true h)

/-- Settles O20: each disjunct contradicts one of the acceptance conditions. -/
theorem refusedCommandsChangeNothing : Obligations.RefusedCommandsChangeNothing := by
  refine ⟨fun s task data h => execTransmit_of_refused ?_, fun s len task h => execReceive_of_refused ?_⟩
  · rintro ⟨htx, hrx, hpos, hmax⟩
    rcases h with h | h | h | h
    · exact h htx
    · exact h hrx
    · omega
    · omega
  · rintro ⟨htx, hpos, hmax⟩
    rcases h with h | h | h
    · exact h htx
    · omega
    · omega

/-! The arcs of the transmit registers (R118). -/

section Arcs

variable {c : CodecRegs} {t : Tx}

theorem tickTx_of_syncFirstHalf (hp : t.txPhase = .syncFirstHalf) :
    tickTx c t = { t with txLine := true, txCnt := t.txCnt + 1, txPhase := .syncSecondHalf } := by
  simp only [tickTx, hp]

theorem tickTx_of_lastSync (hp : t.txPhase = .syncSecondHalf) (hcnt : c.nsync ≤ t.txCnt + 1) :
    tickTx c t = { t with txLine := false, txCnt := 0, txPhase := .dataFirstHalf } := by
  simp only [tickTx, hp, if_pos hcnt]

theorem tickTx_of_moreSync (hp : t.txPhase = .syncSecondHalf) (hcnt : t.txCnt + 1 < c.nsync) :
    tickTx c t = { t with txLine := false, txCnt := t.txCnt + 1, txPhase := .syncFirstHalf } := by
  simp only [tickTx, hp, if_neg (Nat.not_le.mpr hcnt)]

theorem tickTx_of_dataFirstHalf (hp : t.txPhase = .dataFirstHalf) :
    tickTx c t = { t with txLine := txDataBit t, txPhase := .dataSecondHalf } := by
  simp only [tickTx, hp]

theorem tickTx_of_moreBits (hp : t.txPhase = .dataSecondHalf) (hbit : t.txBit ≠ 0) :
    tickTx c t = { t with txLine := !txDataBit t, txBit := t.txBit - 1, txPhase := .dataFirstHalf } := by
  simp only [tickTx, hp, if_neg hbit]

theorem tickTx_of_moreBytes (hp : t.txPhase = .dataSecondHalf) (hbit : t.txBit = 0) (hbyte : t.txByte + 1 ≠ t.txLen) :
    tickTx c t =
      { t with txLine := !txDataBit t, txBit := 7, txByte := t.txByte + 1, txPhase := .dataFirstHalf } := by
  simp only [tickTx, hp, if_pos hbit, if_neg hbyte]

theorem tickTx_of_lastByte (hp : t.txPhase = .dataSecondHalf) (hbit : t.txBit = 0) (hbyte : t.txByte + 1 = t.txLen) :
    tickTx c t =
      { t with txLine := !txDataBit t, txBit := 7, txByte := t.txByte + 1, txCnt := 0, txPhase := .stop } := by
  simp only [tickTx, hp, if_pos hbit, if_pos hbyte]

theorem tickTx_of_moreStop (hp : t.txPhase = .stop) (hcnt : t.txCnt < c.nstop) :
    tickTx c t = { t with txLine := false, txCnt := t.txCnt + 1 } := by
  simp only [tickTx, hp, if_pos hcnt]

theorem tickTx_of_lastStop (hp : t.txPhase = .stop) (hcnt : c.nstop ≤ t.txCnt) :
    tickTx c t = { t with txPhase := .done } := by
  simp only [tickTx, hp, if_neg (Nat.not_lt.mpr hcnt)]

theorem txDataBit_of_lastBit (hbit : t.txBit = 0) : txDataBit t = (Memory.read t.txBuf t.txByte).getLsbD 0 := by
  rw [txDataBit, hbit]
  rfl

end Arcs

/-! The tick (R118). -/

/-- The tick ends the transmission: one period after the last stop half-bit began (R118, R122). -/
def TxEnds (c : CodecRegs) (t : Tx) : Prop := t.txPhase = .stop ∧ c.nstop ≤ t.txCnt

theorem txCompletes_iff : txCompletes s = true ↔ TxEnds s.cfg.codec s.tx := decide_eq_true_iff

/-- A tick that ends the transmission posts `XmitDone`. -/
theorem execTxTick_of_ends (h : TxEnds s.cfg.codec s.tx) : execTxTick s =
    .next { s with tx := { s.tx with txPhase := .done }, evQ := s.evQ ++ [⟨s.tx.txTask, .xmitDone, []⟩] } := by
  obtain ⟨hp, hcnt⟩ := id h
  have hreads : txReads s.tx ≠ true := by simp [txReads_iff, hp]
  simp [execTxTick, hreads, txCompletes_iff.mpr h, tickTx_of_lastStop hp hcnt, post]

/-- Any other tick that reaches no index outside the buffer writes the transmit registers alone. -/
theorem execTxTick_of_not_ends (h : ¬ TxEnds s.cfg.codec s.tx)
    (hread : s.tx.txPhase = .dataFirstHalf ∨ s.tx.txPhase = .dataSecondHalf → s.tx.txByte < s.cfg.nmax) :
    execTxTick s = .next { s with tx := tickTx s.cfg.codec s.tx } := by
  have hin : ¬ (txReads s.tx = true ∧ s.cfg.nmax ≤ s.tx.txByte) := fun ⟨hreads, hpast⟩ =>
    Nat.not_lt.mpr hpast (hread (txReads_iff.mp hreads))
  simp only [execTxTick, if_neg hin, if_neg (mt txCompletes_iff.mp h)]

/-- Settles O21, one arc for each clause. -/
theorem txTickOutsideData : Obligations.TxTickOutsideData := by
  intro s
  have htick : ¬ TxEnds s.cfg.codec s.tx → ¬ (s.tx.txPhase = .dataFirstHalf ∨ s.tx.txPhase = .dataSecondHalf) →
      ∀ {t : Tx}, tickTx s.cfg.codec s.tx = t → execTxTick s = .next { s with tx := t } := by
    rintro hends hp _ rfl
    exact execTxTick_of_not_ends hends fun h => absurd h hp
  refine ⟨fun hp => ?_, fun hp hcnt => ?_, fun hp hcnt => ?_, fun hp hcnt => ?_, fun hp hcnt => ?_, fun hp => ?_⟩
  · exact htick (by simp [TxEnds, hp]) (by simp [hp]) (tickTx_of_syncFirstHalf hp)
  · exact htick (by simp [TxEnds, hp]) (by simp [hp]) (tickTx_of_lastSync hp hcnt)
  · exact htick (by simp [TxEnds, hp]) (by simp [hp]) (tickTx_of_moreSync hp hcnt)
  · exact htick (by simp [TxEnds, hcnt]) (by simp [hp]) (tickTx_of_moreStop hp hcnt)
  · exact execTxTick_of_ends ⟨hp, hcnt⟩
  · exact htick (by simp [TxEnds, hp]) (by simp [hp]) (tickTx_of_done hp)

/-- Settles O22, one arc for each clause. -/
theorem txTickInData : Obligations.TxTickInData := by
  intro s hbyte
  have htick : s.tx.txPhase ≠ .stop → ∀ {t : Tx},
      tickTx s.cfg.codec s.tx = t → execTxTick s = .next { s with tx := t } := by
    rintro hp _ rfl
    exact execTxTick_of_not_ends (fun hends => hp hends.1) fun _ => hbyte
  refine ⟨fun hp => ?_, fun hp hbit => ?_, fun hp hbit hmore => ?_, fun hp hbit hlast => ?_⟩
  · exact htick (by simp [hp]) (tickTx_of_dataFirstHalf hp)
  · exact htick (by simp [hp]) (tickTx_of_moreBits hp hbit)
  · rw [← txDataBit_of_lastBit hbit]
    exact htick (by simp [hp]) (tickTx_of_moreBytes hp hbit hmore)
  · rw [← txDataBit_of_lastBit hbit]
    exact htick (by simp [hp]) (tickTx_of_lastByte hp hbit hlast)

/-! The arcs of the sequencer (R127). -/

/-- A tick takes the arc of R127. -/
theorem tickTx_txPhase (c : CodecRegs) (t : Tx) : (tickTx c t).txPhase = txNextPhase c t := by
  rcases hp : t.txPhase <;> simp only [txNextPhase, hp]
  case syncFirstHalf => rw [tickTx_of_syncFirstHalf hp]
  case syncSecondHalf =>
    split
    case isTrue hcnt => rw [tickTx_of_lastSync hp hcnt]
    case isFalse hcnt => rw [tickTx_of_moreSync hp (Nat.not_le.mp hcnt)]
  case dataFirstHalf => rw [tickTx_of_dataFirstHalf hp]
  case dataSecondHalf =>
    split
    case isTrue hlast => rw [tickTx_of_lastByte hp hlast.1 hlast.2]
    case isFalse hmore =>
      by_cases hbit : t.txBit = 0
      · rw [tickTx_of_moreBytes hp hbit fun hbyte => hmore ⟨hbit, hbyte⟩]
      · rw [tickTx_of_moreBits hp hbit]
  case stop =>
    split
    case isTrue hcnt => rw [tickTx_of_moreStop hp hcnt, hp]
    case isFalse hcnt => rw [tickTx_of_lastStop hp (Nat.not_lt.mp hcnt)]
  case done => rw [tickTx_of_done hp, hp]

/-- A tick posts `XmitDone` where it ends the transmission, and nothing anywhere else. -/
theorem execTxTick_evQ {t : State} (h : execTxTick s = .next t) :
    (TxEnds s.cfg.codec s.tx → t.evQ = s.evQ ++ [⟨s.tx.txTask, .xmitDone, []⟩])
    ∧ (¬ TxEnds s.cfg.codec s.tx → t.evQ = s.evQ) := by
  rcases execTxTick_cases s with ⟨_, _, e⟩ | ⟨_, ⟨hc, e⟩ | ⟨hc, e⟩⟩ <;> cases e.symm.trans h
  · exact ⟨fun _ => rfl, fun hends => absurd (txCompletes_iff.mp hc) hends⟩
  · exact ⟨fun hends => absurd (txCompletes_iff.mpr hends) (by simp [hc]), fun _ => rfl⟩

/-- Only the tick, `TRANSMIT` and `RESET` write transmit registers (R127). -/
theorem exec_keeps_tx {t : State} {i : Instr} (h : exec i s = .next t) (htick : i ≠ .txTick) (hreset : i ≠ .reset)
    (htransmit : ∀ task d, i ≠ .transmit task d) : t.tx = s.tx := by
  cases i with
  | transmit task data => exact absurd rfl (htransmit task data)
  | receive len task => exact (congrArg State.tx (execReceive_frame h) :)
  | stopReceive | fadeTick ledOk =>
    cases h
    rfl
  | txTick => exact absurd rfl htick
  | fadeSetup => exact (congrArg State.tx (execFadeSetup_frame h) :)
  | reset => exact absurd rfl hreset
  | unassigned0 | unassignedA | unassignedB | unassignedC | unassignedD | unassignedE => exact nomatch h
  | _ => exact (congrArg State.tx ((writes_keptOnLine s).exec rfl rfl h) :)

/-- Settles O25: the arcs of the tick, the two outcomes of a command, and the frame of everything else. -/
theorem transmitterArcs : Obligations.TransmitterArcs := by
  intro s t i h
  refine ⟨?_, ?_, ?_, exec_keeps_tx h⟩
  · rintro rfl
    exact ⟨by rw [execTxTick_tx h, tickTx_txPhase], execTxTick_evQ h⟩
  · rintro task d rfl
    refine ⟨fun haccepted => ?_, fun hrefused => ?_⟩
    · cases (execTransmit_of_accepted haccepted).symm.trans h
      rfl
    · cases (execTransmit_of_refused hrefused).symm.trans h
      rfl
  · rintro rfl
    cases h
    rfl

/-- Settles O16: nothing that arrives arms the receiver of a busy transmitter. -/
theorem halfDuplexIsKept : Obligations.HalfDuplexIsKept := fun _ _ hs h => halfDuplex_keptByArrivals.step hs h

end Sys2Proof.Machine

namespace Sys2Proof

open Machine

/-- Settles O19: the bytes are written in order from index 0 on, inside the buffer. The theorem stands outside `Machine`,
where its name is the acceptance condition of R114. -/
theorem transmitAccepted : Obligations.TransmitAccepted := by
  intro s task data htx hrx hpos hmax
  exact ⟨_, execTransmit_of_accepted ⟨htx, hrx, hpos, hmax⟩, rfl, rfl,
    fun i hi => Memory.read_writeBytes_outside (.inr (by omega)),
    fun hwf i hi => Memory.read_writeBytes_start hwf hmax hi⟩

end Sys2Proof
end

section
/-! PROOF. What a transmission puts on the line and when it ends (R85, R122, R124, R126): at every moment the transmitter
has half-bits of its frame still to drive, each tick drives the first of them, and the tick after the last one ends the
transmission. -/

namespace Sys2Proof.Machine

variable {c : CodecRegs} {t : Tx} {s : State}

/-! The half-bits still to drive. -/

/-- Bits `n - 1` down to 0 of a byte (R85). -/
def lowBits (v : Byte) : Nat → List Bool
  | 0 => []
  | n + 1 => v.getLsbD n :: lowBits v n

theorem byteCells_eq_lowBits (v : Byte) : byteCells v = (lowBits v 8).flatMap bitCell := byteCells_eq v

/-- The half-bits of the frame from byte `i` of the buffer on. -/
def fromByte (c : CodecRegs) (t : Tx) (i : Nat) : List Bool :=
  ((Memory.bytes t.txBuf t.txLen).drop i).flatMap byteCells ++ List.replicate c.nstop false

theorem fromByte_of_lt {i : Nat} (h : i < t.txLen) :
    fromByte c t i = (lowBits (Memory.read t.txBuf i) 8).flatMap bitCell ++ fromByte c t (i + 1) := by
  have hbyte : (Memory.bytes t.txBuf t.txLen)[i]'(by simpa) = Memory.read t.txBuf i := by simp [Memory.bytes]
  rw [fromByte, List.drop_eq_getElem_cons (by simpa), List.flatMap_cons, hbyte, byteCells_eq_lowBits, List.append_assoc]
  rfl

theorem fromByte_txLen : fromByte c t t.txLen = List.replicate c.nstop false := by
  rw [fromByte, List.drop_eq_nil_of_le (by simp)]
  rfl

/-- The half-bits the transmitter has still to drive. -/
def pending (c : CodecRegs) (t : Tx) : List Bool :=
  let bit n := (lowBits (Memory.read t.txBuf t.txByte) n).flatMap bitCell
  match t.txPhase with
  | .syncFirstHalf | .syncSecondHalf => (syncLevels c.nsync).drop t.txCnt ++ fromByte c t 0
  | .dataFirstHalf => bit (t.txBit.toNat + 1) ++ fromByte c t (t.txByte + 1)
  | .dataSecondHalf => (!txDataBit t) :: bit t.txBit.toNat ++ fromByte c t (t.txByte + 1)
  | .stop => List.replicate (c.nstop - t.txCnt) false
  | .done => []

/-- The transmitter is inside a frame: its counters are those of one of the half-bits of R124. -/
def InFrame (c : CodecRegs) (t : Tx) : Prop :=
  match t.txPhase with
  | .syncFirstHalf => t.txCnt % 2 = 0 ∧ t.txCnt < c.nsync ∧ t.txByte = 0 ∧ t.txBit = 7 ∧ 1 ≤ t.txLen
  | .syncSecondHalf => t.txCnt % 2 = 1 ∧ t.txCnt < c.nsync ∧ t.txByte = 0 ∧ t.txBit = 7 ∧ 1 ≤ t.txLen
  | .dataFirstHalf | .dataSecondHalf => t.txByte < t.txLen
  | .stop => True
  | .done => False

theorem drop_syncLevels {n i : Nat} (h : i < n) :
    (syncLevels n).drop i = decide (i % 2 = 0) :: (syncLevels n).drop (i + 1) := by
  rw [List.drop_eq_getElem_cons (by simpa [syncLevels])]
  simp [syncLevels]

theorem drop_syncLevels_self (n : Nat) : (syncLevels n).drop n = [] := List.drop_eq_nil_of_le (by simp [syncLevels])

/-- Each tick before the end drives the first of the half-bits still to drive, and stays inside the frame. -/
theorem tickTx_drives (heven : c.nsync % 2 = 0) (h : InFrame c t) (hends : ¬ TxEnds c t) :
    InFrame c (tickTx c t) ∧ pending c t = (tickTx c t).txLine :: pending c (tickTx c t) := by
  rcases hp : t.txPhase <;> simp only [InFrame, hp] at h
  case syncFirstHalf =>
    obtain ⟨hcnt, hlt, hframe⟩ := h
    rw [tickTx_of_syncFirstHalf hp]
    refine ⟨⟨by dsimp only; omega, by dsimp only; omega, hframe⟩, ?_⟩
    simp only [pending, hp]
    rw [drop_syncLevels hlt, hcnt]
    rfl
  case syncSecondHalf =>
    obtain ⟨hcnt, hlt, hbyte, hbit, hlen⟩ := h
    have hhead : pending c t = false :: ((syncLevels c.nsync).drop (t.txCnt + 1) ++ fromByte c t 0) := by
      simp only [pending, hp]
      rw [drop_syncLevels hlt, hcnt]
      rfl
    rw [hhead]
    by_cases hlast : c.nsync ≤ t.txCnt + 1
    · have hn : t.txCnt + 1 = c.nsync := by omega
      rw [tickTx_of_lastSync hp hlast, hn, drop_syncLevels_self, fromByte_of_lt hlen]
      refine ⟨hbyte.trans_lt hlen, ?_⟩
      simp only [pending, hbyte, hbit]
      rfl
    · rw [tickTx_of_moreSync hp (Nat.not_le.mp hlast)]
      exact ⟨⟨by dsimp only; omega, Nat.not_le.mp hlast, hbyte, hbit, hlen⟩, rfl⟩
  case dataFirstHalf =>
    rw [tickTx_of_dataFirstHalf hp]
    refine ⟨h, ?_⟩
    simp only [pending, hp]
    rfl
  case dataSecondHalf =>
    by_cases hbit : t.txBit = 0
    · have hhead : pending c t = (!txDataBit t) :: fromByte c t (t.txByte + 1) := by
        simp only [pending, hp, hbit]
        rfl
      rw [hhead]
      by_cases hlast : t.txByte + 1 = t.txLen
      · rw [tickTx_of_lastByte hp hbit hlast, hlast, fromByte_txLen]
        exact ⟨trivial, rfl⟩
      · have hmore : t.txByte + 1 < t.txLen := by omega
        rw [tickTx_of_moreBytes hp hbit hlast, fromByte_of_lt hmore]
        exact ⟨hmore, rfl⟩
    · have hpred : (t.txBit - 1).toNat + 1 = t.txBit.toNat := by bv_omega
      rw [tickTx_of_moreBits hp hbit]
      refine ⟨h, ?_⟩
      simp only [pending, hp, hpred]
      rfl
  case stop =>
    have hcnt : t.txCnt < c.nstop := Nat.not_le.mp fun hle => hends ⟨hp, hle⟩
    have hn : c.nstop - t.txCnt = c.nstop - (t.txCnt + 1) + 1 := by omega
    rw [tickTx_of_moreStop hp hcnt]
    simp only [InFrame, pending, hp, hn, List.replicate_succ, and_self]

theorem pending_of_ends (h : TxEnds c t) : pending c t = [] := by
  obtain ⟨hp, hcnt⟩ := h
  simp only [pending, hp, Nat.sub_eq_zero_of_le hcnt, List.replicate_zero]

/-- Inside a frame nothing is left to drive only once the last stop half-bit has begun. -/
theorem ends_of_pending_eq_nil (heven : c.nsync % 2 = 0) (h : InFrame c t) (hnil : pending c t = []) : TxEnds c t := by
  by_contra hends
  obtain ⟨_, hhead⟩ := tickTx_drives heven h hends
  exact nomatch hnil.symm.trans hhead

/-- An accepted command has the whole frame of what it put into the buffer still to drive (R112). -/
theorem pending_armTransmit (task : Nat) (d : List Byte) (t : Tx) :
    pending c (armTransmit task d t) = frame c (Memory.bytes (Memory.writeBytes t.txBuf 0 d) d.length) :=
  (List.append_assoc _ _ _).symm

/-! Ticks in a row. -/

/-- The length of a frame is fixed when it is armed (R112, R118). -/
@[simp] theorem tickTx_txLen (c : CodecRegs) (t : Tx) : (tickTx c t).txLen = t.txLen := by
  unfold tickTx
  repeat' split
  all_goals rfl

/-- The transmitter has the half-bits `halves` still to drive, of a frame that fits its buffer. -/
structure Drives (halves : List Bool) (s : State) : Prop where
  evenSync : s.cfg.codec.nsync % 2 = 0
  fits : s.tx.txLen ≤ s.cfg.nmax
  inFrame : InFrame s.cfg.codec s.tx
  pending : pending s.cfg.codec s.tx = halves

namespace Drives

variable {half : Bool} {halves : List Bool}

theorem byte_lt (h : Drives halves s) (hp : s.tx.txPhase = .dataFirstHalf ∨ s.tx.txPhase = .dataSecondHalf) :
    s.tx.txByte < s.cfg.nmax := by
  obtain ⟨_, hfits, hframe, _⟩ := h
  rcases hp with hp | hp <;> simp only [InFrame, hp] at hframe <;> omega

theorem busy (h : Drives halves s) : txBusy s = true := by
  refine decide_eq_true fun hp => ?_
  have hframe := h.inFrame
  simp only [InFrame, hp] at hframe

/-- A tick with a half-bit still to drive drives it, and writes the transmit registers alone (R118, R124). -/
theorem tick (h : Drives (half :: halves) s) :
    ∃ t : Tx, execTxTick s = .next { s with tx := t } ∧ t.txTask = s.tx.txTask ∧ t.txLine = half
      ∧ Drives halves { s with tx := t } := by
  have hends : ¬ TxEnds s.cfg.codec s.tx := fun hends => nomatch h.pending.symm.trans (pending_of_ends hends)
  obtain ⟨hframe, hhead⟩ := tickTx_drives h.evenSync h.inFrame hends
  obtain ⟨hline, hrest⟩ := List.cons.inj (hhead.symm.trans h.pending)
  exact ⟨_, execTxTick_of_not_ends hends h.byte_lt, tickTx_txTask _ _, hline,
    h.evenSync, by simpa using h.fits, hframe, hrest⟩

/-- With nothing left to drive the next tick ends the transmission (R118, R126). -/
theorem last_tick (h : Drives [] s) : execTxTick s =
    .next { s with tx := { s.tx with txPhase := .done }, evQ := s.evQ ++ [⟨s.tx.txTask, .xmitDone, []⟩] } :=
  execTxTick_of_ends (ends_of_pending_eq_nil h.evenSync h.inFrame h.pending)

/-- After `k` ticks the first `k` half-bits have been driven, the line has the last of them, and nothing but transmit
registers has changed (R124). -/
theorem ticks (h : Drives halves s) : ∀ {k : Nat}, k ≤ halves.length →
    ∃ t : Tx, txTicks k s = .next { s with tx := t } ∧ t.txTask = s.tx.txTask
      ∧ (1 ≤ k → halves[k - 1]? = some t.txLine) ∧ Drives (halves.drop k) { s with tx := t }
  | 0, _ => ⟨s.tx, rfl, rfl, nofun, h⟩
  | k + 1, hk => by
    obtain ⟨t, ht, htask, _, hleft⟩ := h.ticks (k := k) (by omega)
    rw [List.drop_eq_getElem_cons hk] at hleft
    obtain ⟨u, hu, hutask, hline, hrest⟩ := hleft.tick
    refine ⟨u, ?_, hutask.trans htask, fun _ => ?_, hrest⟩
    · rw [txTicks, ht]
      exact hu
    · rw [hline]
      exact List.getElem?_eq_getElem hk

end Drives

/-! A transmission. -/

/-- Reading back a run of writes gives the bytes written (R112). -/
theorem Memory.bytes_writeBytes {n : Nat} {m : Memory} {d : List Byte} (h : Memory.wf n m = true) (hd : d.length ≤ n) :
    Memory.bytes (Memory.writeBytes m 0 d) d.length = d := by
  refine List.ext_getElem (by simp) fun i _ hi => ?_
  simpa [Memory.bytes] using Memory.read_writeBytes_start h hd hi

/-- The bytes of the frame that a command with the bytes `d` sends: what it put into the buffer (R112, R118). -/
def sentBytes (d : List Byte) (s : State) : List Byte := Memory.bytes (Memory.writeBytes s.tx.txBuf 0 d) d.length

section Transmission

variable {d : List Byte} (task : Nat) (hwf : s.cfg.codec.wf = true) (htx : s.tx.txPhase = .done)
  (hrx : s.rx.rxPhase = .done) (hpos : 1 ≤ d.length) (hmax : d.length ≤ s.cfg.nmax)

include hwf

theorem frame_sentBytes_length :
    (frame s.cfg.codec (sentBytes d s)).length = s.cfg.codec.nsync + 16 * d.length + s.cfg.codec.nstop := by
  simp only [CodecRegs.wf, decide_eq_true_eq] at hwf
  obtain ⟨_, heven, _⟩ := hwf
  obtain ⟨hlength, _⟩ := frameShape s.cfg.codec (sentBytes d s) heven
  rw [hlength, sentBytes, Memory.bytes_length]

include htx hrx hpos hmax

/-- An accepted command is about to drive a whole frame (R112, R124). -/
theorem execTransmit_drives :
    ∃ t : Tx, execTransmit task d s = .next { s with tx := t } ∧ t.txTask = task
      ∧ Drives (frame s.cfg.codec (sentBytes d s)) { s with tx := t } := by
  simp only [CodecRegs.wf, decide_eq_true_eq] at hwf
  obtain ⟨hsync, heven, _⟩ := hwf
  exact ⟨_, execTransmit_of_accepted ⟨htx, hrx, hpos, hmax⟩, rfl,
    heven, hmax, ⟨rfl, Nat.zero_lt_of_lt hsync, rfl, rfl, hpos⟩, pending_armTransmit task d s.tx⟩

/-- The accepted command and `k` ticks, up to the last half-bit of the frame (R124). -/
theorem transmission_ticks {k : Nat} (hk : k ≤ s.cfg.codec.nsync + 16 * d.length + s.cfg.codec.nstop) :
    ∃ t : Tx, andThen (exec (.transmit task d) s) (txTicks k) = .next { s with tx := t } ∧ t.txTask = task
      ∧ (1 ≤ k → (frame s.cfg.codec (sentBytes d s))[k - 1]? = some t.txLine)
      ∧ Drives ((frame s.cfg.codec (sentBytes d s)).drop k) { s with tx := t } := by
  obtain ⟨t, ht, htask, hdrives⟩ := execTransmit_drives task hwf htx hrx hpos hmax
  obtain ⟨u, hu, hutask, hline, hrest⟩ := hdrives.ticks (k := k) (by rwa [frame_sentBytes_length hwf])
  exact ⟨u, andThen_eq_next.mpr ⟨_, ht, hu⟩, hutask.trans htask, hline, hrest⟩

end Transmission

/-- Settles O23: each tick drives the next half-bit of the frame of what the command put into the buffer, and a canonical
buffer gives back the command's bytes. -/
theorem ticksDriveTheFrame : Obligations.TicksDriveTheFrame := by
  intro s task d k hwf hbuf htx hrx hpos hmax hk hle
  obtain ⟨t, ht, _, hline, _⟩ := transmission_ticks task hwf htx hrx hpos hmax hle
  have hbytes : sentBytes d s = d := Memory.bytes_writeBytes hbuf hmax
  rw [hbytes] at hline
  exact ⟨_, ht, hline hk⟩

/-- Settles O24: as long as half-bits are left a tick only drives one, and the tick after the last of them ends the
transmission. Which bytes are sent does not matter, so the buffer need not be canonical. -/
theorem transmissionTakesItsTicks : Obligations.TransmissionTakesItsTicks := by
  intro s task d hwf htx hrx hpos hmax
  refine ⟨fun k hk => ?_, ?_⟩
  · obtain ⟨t, ht, _, _, hdrives⟩ := transmission_ticks task hwf htx hrx hpos hmax hk
    exact ⟨_, ht, hdrives.busy, rfl⟩
  · obtain ⟨t, ht, htask, _, hdrives⟩ := transmission_ticks task hwf htx hrx hpos hmax le_rfl
    rw [List.drop_eq_nil_of_le (frame_sentBytes_length hwf).le] at hdrives
    have hsplit : ∀ n, txTicks (n + 1) = fun u => andThen (txTicks n u) execTxTick := fun _ => rfl
    rw [hsplit, ← andThen_assoc, ht]
    exact ⟨_, hdrives.last_tick, rfl, by rw [← htask]⟩

end Sys2Proof.Machine
end

section
/-! PROOF. The receive operations, phase by phase (R134, R138, R142, R144, R150, R154, R156, R158): first the shared
transitions of which they are made, each by an equation for every case, then the statements. -/

namespace Sys2Proof.Machine

variable {s : State} {cOff cOn : DurClass}

/-! The two commands (R134, R136, R138). -/

theorem execReceive_of_accepted {len task : Nat} (h : s.tx.txPhase = .done ∧ 1 ≤ len ∧ len ≤ s.cfg.nmax) :
    execReceive len task s = .next { s with rx := rearm len task s.rx } :=
  if_pos (decide_eq_true h)

/-- Settles O26: what the command writes is what `rearm` gives. -/
theorem receiveArms : Obligations.ReceiveArms :=
  fun _ _ _ htx hpos hmax => execReceive_of_accepted ⟨htx, hpos, hmax⟩

/-- Settles O27, which is the definition of the command. -/
theorem stopReceiveDisables : Obligations.StopReceiveDisables := fun _ => rfl

/-! An edge while the receiver listens (R142, R144, R160). -/

/-- The receiver waits for edges: the phases in which `RX_RISE` and `RX_TICK` do the same (R142, R150). -/
def Listens (r : Rx) : Prop := r.rxPhase = .sync ∨ r.rxPhase = .data

/-- The record that announces the first edge, and nothing for a later one (R160). -/
def firstEdge (r : Rx) : List Event := if r.rxEdgeSeen then [] else [⟨r.rxTask, .recvEdge, []⟩]

theorem firstEdge_of_seen {r : Rx} (h : r.rxEdgeSeen = true) : firstEdge r = [] := if_pos h

theorem firstEdge_of_unseen {r : Rx} (h : r.rxEdgeSeen = false) : firstEdge r = [⟨r.rxTask, .recvEdge, []⟩] :=
  if_neg (Bool.eq_false_iff.mp h)

/-- What every edge does to a receiver that listens. -/
theorem clearMiss_noteEdge (s : State) :
    clearMiss (noteEdge s) =
      { s with rx := { s.rx with rxEdgeSeen := true, rxMiss := 0 }, evQ := s.evQ ++ firstEdge s.rx } := by
  simp [State.ext_iff, firstEdge]

theorem execRxRise_of_stop (hp : s.rx.rxPhase = .stop) : execRxRise s = .next (abort .frameTimingError s) := by
  simp only [execRxRise, hp]

theorem execRxRise_of_listens (hp : Listens s.rx) : execRxRise s = .next (clearMiss (noteEdge s)) := by
  rcases hp with hp | hp <;> simp only [execRxRise, hp]

/-- Settles O28, one equation of `RX_RISE` for each clause. -/
theorem riseByPhase : Obligations.RiseByPhase := by
  intro s
  refine ⟨execFrontEvent_of_done .rise, execRxRise_of_stop, fun hp hunseen => ?_, fun hp hseen => ?_⟩
  · refine (execRxRise_of_listens hp).trans ?_
    rw [clearMiss_noteEdge, firstEdge_of_unseen hunseen]
  · refine (execRxRise_of_listens hp).trans ?_
    rw [clearMiss_noteEdge, firstEdge_of_seen hseen, List.append_nil, ← hseen]

/-! A sample outside the data phase (R140, R144, R154). -/

theorem sample_of_stop {a : DecAction} (hp : s.rx.rxPhase = .stop) :
    sample cOff cOn a s = .next (abort .frameTimingError s) := by
  simp only [sample, hp]

theorem sample_of_sync {a : DecAction} (hp : s.rx.rxPhase = .sync) :
    sample cOff cOn a s = .next (syncSample cOff cOn (clearMiss (noteEdge s))) := by
  simp only [sample, hp]

/-- The classes of a sync pair: the first sample ignores its off duration (R140). -/
def SyncPair (n : Nat) (cOff cOn : DurClass) : Prop := cOn = .half ∧ (n = 0 ∨ cOff = .half)

/-- The receive registers after an accepted sync pair: two half-bits more are counted (R140). -/
def countPair (r : Rx) : Rx :=
  { r with rxSyncCnt := r.rxSyncCnt + 2, rxPrev := decide (r.rxSyncCnt = 0) || r.rxPrev }

theorem syncSample_of_pair (h : SyncPair s.rx.rxSyncCnt cOff cOn) :
    syncSample cOff cOn s =
      { s with rx := { countPair s.rx with
          rxPhase := if s.cfg.codec.nsync ≤ s.rx.rxSyncCnt + 2 then .data else s.rx.rxPhase } } := by
  have hprev : (if s.rx.rxSyncCnt = 0 then true else s.rx.rxPrev) = (decide (s.rx.rxSyncCnt = 0) || s.rx.rxPrev) := by
    by_cases h0 : s.rx.rxSyncCnt = 0 <;> simp [h0]
  refine (if_pos h).trans ?_
  rw [countPair, ← hprev]

theorem syncSample_of_other (h : ¬ SyncPair s.rx.rxSyncCnt cOff cOn) :
    syncSample cOff cOn s = abort .frameTimingError s :=
  if_neg h

/-- Settles O30, one equation of a sample for each phase. -/
theorem sampleWhenDoneOrStopped : Obligations.SampleWhenDoneOrStopped := fun _ _ _ => ⟨sample_of_done, sample_of_stop⟩

/-- Settles O29: the edge is noted first, and then the sample is a pair, the last pair, or none. -/
theorem sampleInSync : Obligations.SampleInSync := by
  intro s off on hp edge ok
  have hsample : exec (.rxSample off on) s =
      .next (syncSample (classify s.cfg.codec off) (classify s.cfg.codec on)
        { s with rx := { s.rx with rxEdgeSeen := true, rxMiss := 0 }, evQ := s.evQ ++ edge }) := by
    refine (sample_of_sync hp).trans ?_
    rw [clearMiss_noteEdge]
    rfl
  refine ⟨fun hok hmore => ?_, fun hok hlast => ?_, fun hno => ?_⟩ <;> rw [hsample]
  · rw [syncSample_of_pair (by exact hok), if_neg (Nat.not_le.mpr (by exact hmore))]
    rfl
  · rw [syncSample_of_pair (by exact hok), if_pos (by exact hlast)]
    rfl
  · rw [syncSample_of_other (by exact hno)]
    rfl

/-- Settles O33: what no rule accepts is the action `Error`. -/
theorem sampleAborts : Obligations.SampleAborts := by
  intro s off on hp hnone
  show execRxSample off on s = _
  rw [execRxSample, lookup_eq_error.mpr hnone]
  exact sample_error hp

/-! A half-bit window without an edge (R150, R154, R156, R158). -/

theorem execRxTick_of_listens (hp : Listens s.rx) : execRxTick s = .next (missWindow s) := by
  rcases hp with hp | hp <;> simp only [execRxTick, hp]

theorem missWindow_of_unseen (h : s.rx.rxEdgeSeen = false) : missWindow s = s := if_neg (Bool.eq_false_iff.mp h)

theorem missWindow_of_more (h : s.rx.rxEdgeSeen = true) (hm : s.rx.rxMiss ≠ 3) :
    missWindow s = { s with rx := { s.rx with rxMiss := s.rx.rxMiss + 1 } } := by
  have hlimit : s.rx.rxMiss + 1 ≠ timeoutWindows := by
    unfold timeoutWindows
    bv_omega
  exact (if_pos h).trans (if_neg hlimit)

theorem missWindow_of_last (h : s.rx.rxEdgeSeen = true) (hm : s.rx.rxMiss = 3) :
    missWindow s = abort .frameTimeoutError { s with rx := { s.rx with rxMiss := 4 } } := by
  unfold missWindow
  rw [if_pos h, hm]
  rfl

theorem stopWindow_of_more (h : s.rx.rxStopCnt + 1 ≠ s.cfg.codec.nstop) :
    stopWindow s = .next { s with rx := { s.rx with rxStopCnt := s.rx.rxStopCnt + 1 } } := if_neg h

theorem stopWindow_of_last (h : s.rx.rxStopCnt + 1 = s.cfg.codec.nstop) (hlen : s.rx.rxLen ≤ s.cfg.nmax) :
    stopWindow s = .next (post s.rx.rxTask .recvDone (Memory.bytes s.rx.rxBuf s.rx.rxLen)
      { s with rx := { s.rx with rxStopCnt := s.rx.rxStopCnt + 1, rxPhase := .done } }) :=
  (if_pos h).trans (if_pos hlen)

/-- Settles O34, one equation of `RX_TICK` for each clause. -/
theorem rxTickByPhase : Obligations.RxTickByPhase := by
  intro s
  have hlisten : ∀ {t : State}, Listens s.rx → missWindow s = t → execRxTick s = .next t := by
    rintro _ hp rfl
    exact execRxTick_of_listens hp
  refine ⟨execFrontEvent_of_done .tick, fun hp hunseen => ?_, fun hp hseen hmore => ?_, fun hp hseen hlast => ?_,
    fun hp hmore => ?_, fun hp hlast hlen => ?_⟩
  · exact hlisten hp (missWindow_of_unseen hunseen)
  · exact hlisten hp (missWindow_of_more hseen hmore)
  · exact hlisten hp (missWindow_of_last hseen hlast)
  · exact (execRxTick_of_stop hp).trans (stopWindow_of_more hmore)
  · exact (execRxTick_of_stop hp).trans (stopWindow_of_last hlast hlen)

end Sys2Proof.Machine
end

section
/-! PROOF. The course of a receive operation (R130, R142, R160): its first edge is announced once, and its phase never
goes back. What the line does to either follows from its operations; no command but `RECEIVE` and `RESET` matters. -/

namespace Sys2Proof.Machine

variable {s t u : State}

/-- Apart from what comes over the line, `RECEIVE` and `RESET`, an operation leaves the receive registers as they are or
only disables the receiver (R138, R152). -/
theorem exec_rx_of_command {i : Instr} (h : exec i s = .next t) (hline : Instr.isLineEvent i = false)
    (hreset : i ≠ .reset) (hreceive : ∀ len task, i ≠ .receive len task) :
    t.rx = s.rx ∨ t.rx = { s.rx with rxPhase := .done } := by
  cases i with
  | transmit task data => exact .inl (congrArg State.rx (execTransmit_frame h) :)
  | receive len task => exact absurd rfl (hreceive len task)
  | stopReceive =>
    cases h
    exact .inr rfl
  | txTick => exact .inl (congrArg State.rx (execTxTick_frame h) :)
  | fadeSetup => exact .inl (congrArg State.rx (execFadeSetup_frame h) :)
  | fadeTick ledOk =>
    cases h
    exact .inl rfl
  | reset => exact absurd rfl hreset
  | unassigned0 | unassignedA | unassignedB | unassignedC | unassignedD | unassignedE => exact nomatch h
  | _ => exact nomatch hline

/-! Transitions that announce no edge. -/

/-- From `s` to `t` the edge flag stays as it is, and no `RecvEdge` is posted. -/
def Unannounced (s t : State) : Prop :=
  t.rx.rxEdgeSeen = s.rx.rxEdgeSeen ∧ ∃ new, t.evQ = s.evQ ++ new ∧ ∀ x ∈ new, x.kind ≠ .recvEdge

theorem Unannounced.silent (hseen : t.rx.rxEdgeSeen = s.rx.rxEdgeSeen) (hq : t.evQ = s.evQ) : Unannounced s t :=
  ⟨hseen, [], by rw [hq, List.append_nil], nofun⟩

theorem Unannounced.refl (s : State) : Unannounced s s := .silent rfl rfl

theorem Unannounced.trans (h : Unannounced s t) (h' : Unannounced t u) : Unannounced s u := by
  obtain ⟨hseen, new, hq, hnew⟩ := h
  obtain ⟨hseen', new', hq', hnew'⟩ := h'
  refine ⟨hseen'.trans hseen, new ++ new', by rw [hq', hq, List.append_assoc], fun x hx => ?_⟩
  exact (List.mem_append.mp hx).elim (hnew x) (hnew' x)

/-- Posting a record of another kind announces no edge. -/
theorem Unannounced.posted {task : Nat} {kind : EventKind} {payload : List Byte} (hk : kind ≠ .recvEdge) :
    Unannounced s (post task kind payload s) :=
  ⟨rfl, _, rfl, fun _ hx => by cases List.mem_singleton.mp hx; exact hk⟩

theorem abort_unannounced (cause : RxCause) (s : State) : Unannounced s (abort cause s) :=
  .trans (.silent (t := { s with rx := { s.rx with rxCause := cause, rxPhase := .done } }) rfl rfl) (.posted nofun)

theorem syncSample_unannounced (cOff cOn : DurClass) (s : State) : Unannounced s (syncSample cOff cOn s) := by
  by_cases h : SyncPair s.rx.rxSyncCnt cOff cOn
  · rw [syncSample_of_pair h]
    exact .silent rfl rfl
  · rw [syncSample_of_other h]
    exact abort_unannounced _ s

theorem pushBit_unannounced {b : Bool} (h : pushBit b s = .next t) : Unannounced s t := by
  rcases pushBit_cases b s with ⟨_, e⟩ | ⟨_, _, e⟩ | ⟨_, _, e⟩ <;> cases e.symm.trans h
  · exact .silent rfl rfl
  · obtain ⟨_, _, _, _, hseen, _⟩ := storeByte_keeps (shiftIn s.rx.rxShift b) s.rx
    exact .silent hseen rfl

theorem applyAction_unannounced {a : DecAction} (h : applyAction a s = .next t) : Unannounced s t := by
  cases a with
  | emit0 | emit1 =>
    obtain ⟨u, hu, hv⟩ := andThen_eq_next.mp h
    cases hv
    exact (pushBit_unannounced hu).trans (.silent rfl rfl)
  | emit01 =>
    obtain ⟨u, hu, hv⟩ := andThen_eq_next.mp h
    refine (pushBit_unannounced hu).trans ?_
    split at hv
    · obtain ⟨v, hpush, hw⟩ := andThen_eq_next.mp hv
      cases hw
      exact (pushBit_unannounced hpush).trans (.silent rfl rfl)
    · cases hv
      exact abort_unannounced _ u
  | error =>
    cases h
    exact abort_unannounced _ s

theorem missWindow_unannounced (s : State) : Unannounced s (missWindow s) := by
  rcases missWindow_cases s with e | e | e <;> rw [e]
  · exact .refl s
  · exact .silent rfl rfl
  · exact .trans (.silent rfl rfl) (abort_unannounced _ _)

theorem stopWindow_unannounced (h : stopWindow s = .next t) : Unannounced s t := by
  rcases stopWindow_cases s with e | e | e <;> cases e.symm.trans h
  · exact .silent rfl rfl
  · exact .trans (.silent rfl rfl) (.posted nofun)

/-! The front-end events (R142, R144, R150). -/

/-- A rising edge is noted where the receiver listens, and announces nothing anywhere else. -/
theorem execRxRise_announces (h : execRxRise s = .next t) :
    (Listens s.rx ∧ Unannounced (clearMiss (noteEdge s)) t) ∨ (¬ Listens s.rx ∧ Unannounced s t) := by
  rcases hp : s.rx.rxPhase
  case sync =>
    cases (execRxRise_of_listens (.inl hp)).symm.trans h
    exact .inl ⟨.inl hp, .refl _⟩
  case data =>
    cases (execRxRise_of_listens (.inr hp)).symm.trans h
    exact .inl ⟨.inr hp, .refl _⟩
  case stop =>
    cases (execRxRise_of_stop hp).symm.trans h
    exact .inr ⟨by simp [Listens, hp], abort_unannounced _ s⟩
  case done =>
    cases (execFrontEvent_of_done .rise hp).symm.trans h
    exact .inr ⟨by simp [Listens, hp], .refl s⟩

/-- A sample notes its edge in the sync phase, and announces nothing anywhere else. -/
theorem sample_announces {cOff cOn : DurClass} {a : DecAction} (h : sample cOff cOn a s = .next t) :
    (s.rx.rxPhase = .sync ∧ Unannounced (clearMiss (noteEdge s)) t) ∨ (s.rx.rxPhase ≠ .sync ∧ Unannounced s t) := by
  rcases sample_cases cOff cOn a s with ⟨hp, e⟩ | ⟨hp, e⟩ | ⟨hp, e⟩ | ⟨hp, e⟩
  · cases e.symm.trans h
    exact .inr ⟨by simp [hp], .refl s⟩
  · cases e.symm.trans h
    exact .inr ⟨by simp [hp], abort_unannounced _ s⟩
  · cases e.symm.trans h
    exact .inl ⟨hp, syncSample_unannounced _ _ _⟩
  · exact .inr ⟨by simp [hp],
      (Unannounced.silent (t := clearMiss s) rfl rfl).trans (applyAction_unannounced (e.symm.trans h))⟩

theorem execRxTick_unannounced (h : execRxTick s = .next t) : Unannounced s t := by
  rcases hp : s.rx.rxPhase
  case sync =>
    cases (execRxTick_of_listens (.inl hp)).symm.trans h
    exact missWindow_unannounced s
  case data =>
    cases (execRxTick_of_listens (.inr hp)).symm.trans h
    exact missWindow_unannounced s
  case stop => exact stopWindow_unannounced ((execRxTick_of_stop hp).symm.trans h)
  case done =>
    cases (execFrontEvent_of_done .tick hp).symm.trans h
    exact .refl s

/-- Where the edge is already announced, noting it again makes no difference. -/
theorem Unannounced.after_edge (h : Unannounced s t) (hseen : s.rx.rxEdgeSeen = true) :
    Unannounced (clearMiss (noteEdge s)) t := by
  refine .trans (.silent ?_ ?_) h
  · rw [clearMiss_noteEdge, hseen]
  · rw [clearMiss_noteEdge, firstEdge_of_seen hseen, List.append_nil]

/-- A front-end event of a sane receiver notes an edge exactly where it is one and the receiver listens; in the data
phase the edge has been noted before (R152). -/
theorem execFrontEvent_announces {e : FrontEvent} (hs : RxSane s.cfg s.rx) (h : execFrontEvent e s = .next t) :
    ((Listens s.rx ∧ e ≠ .tick) ∧ Unannounced (clearMiss (noteEdge s)) t)
    ∨ (¬ (Listens s.rx ∧ e ≠ .tick) ∧ Unannounced s t) := by
  cases e with
  | rise => simpa using execRxRise_announces h
  | sample off on =>
    rcases sample_announces h with ⟨hp, ht⟩ | ⟨hp, ht⟩
    · exact .inl ⟨⟨.inl hp, nofun⟩, ht⟩
    · by_cases hdata : s.rx.rxPhase = .data
      · obtain ⟨_, _, _, hseen, _⟩ := (rxSane_of_data hdata).mp hs
        exact .inl ⟨⟨.inr hdata, nofun⟩, ht.after_edge hseen⟩
      · exact .inr ⟨fun ⟨hlistens, _⟩ => hlistens.elim hp hdata, ht⟩
  | tick => exact .inr ⟨fun ⟨_, hne⟩ => hne rfl, execRxTick_unannounced h⟩

/-- The records of an edge and of what follows it unannounced: one `RecvEdge`, or none where the flag was set. -/
theorem Unannounced.edge_posts (h : Unannounced (clearMiss (noteEdge s)) t) :
    ∃ new, t.evQ = s.evQ ++ new ∧ ((∃ x ∈ new, x.kind = .recvEdge) ↔ s.rx.rxEdgeSeen = false)
      ∧ t.rx.rxEdgeSeen = true := by
  obtain ⟨hseen, new, hq, hnew⟩ := h
  rw [clearMiss_noteEdge] at hseen hq
  refine ⟨firstEdge s.rx ++ new, by rw [hq, List.append_assoc], ?_, hseen⟩
  have hnone : ¬ ∃ x ∈ new, x.kind = .recvEdge := fun ⟨x, hx, hk⟩ => hnew x hx hk
  rcases hflag : s.rx.rxEdgeSeen
  · simp [firstEdge_of_unseen hflag]
  · simpa [firstEdge_of_seen hflag] using hnew

/-- Nothing that comes over the line clears the edge flag. -/
theorem edgeSeen_keptOnLine : KeptOnLine fun u => u.rx.rxEdgeSeen = true where
  rxRise s t hs h := by
    rcases execRxRise_announces h with ⟨_, ht⟩ | ⟨_, hseen, _⟩
    · obtain ⟨_, _, _, hseen⟩ := ht.edge_posts
      exact hseen
    · exact hseen.trans hs
  sample _ _ _ s t hs h := by
    rcases sample_announces h with ⟨_, ht⟩ | ⟨_, hseen, _⟩
    · obtain ⟨_, _, _, hseen⟩ := ht.edge_posts
      exact hseen
    · exact hseen.trans hs
  rxTick s t hs h := by
    obtain ⟨hseen, _⟩ := execRxTick_unannounced h
    exact hseen.trans hs
  frontEnd _ _ hs := hs

/-- Settles O37: an edge that the receiver listens to posts `RecvEdge` where the flag is clear and sets it, no other
event posts it, and no command but `RECEIVE` and `RESET` writes the flag. -/
theorem edgeAnnouncedOnce : Obligations.EdgeAnnouncedOnce := by
  refine ⟨fun s t e hs h => ?_, fun s t i h hreset hreceive hseen => ?_⟩
  · rcases execFrontEvent_announces hs h with ⟨⟨hlistens, hedge⟩, ht⟩ | ⟨hno, _, new, hq, hnew⟩
    · obtain ⟨new, hq, hposts, hset⟩ := ht.edge_posts
      exact ⟨new, hq, hposts.trans ⟨fun hclear => ⟨hlistens, hclear, hedge⟩, fun ⟨_, hclear, _⟩ => hclear⟩,
        fun _ => hset⟩
    · have hnone : ¬ ∃ x ∈ new, x.kind = .recvEdge := fun ⟨x, hx, hk⟩ => hnew x hx hk
      exact ⟨new, hq, ⟨fun hx => absurd hx hnone, fun ⟨hlistens, _, hedge⟩ => absurd ⟨hlistens, hedge⟩ hno⟩,
        fun hx => absurd hx hnone⟩
  · rcases hline : Instr.isLineEvent i
    · rcases exec_rx_of_command h hline hreset hreceive with e | e <;> rw [e] <;> exact hseen
    · exact edgeSeen_keptOnLine.exec hline hseen h

/-! The phases (R130). -/

theorem rxRank_le_done (p : RxPhase) : rxRank p ≤ rxRank .done := by
  cases p <;> decide

theorem rxRank_data_le {p : RxPhase} (h : p ≠ .sync) : rxRank .data ≤ rxRank p := by
  cases p with
  | sync => exact absurd rfl h
  | data | stop | done => decide

/-- The packer leaves the phase as it is, or ends the data phase (R146). -/
theorem pushBit_rxPhase {b : Bool} (h : pushBit b s = .next t) :
    t.rx.rxPhase = s.rx.rxPhase ∨ t.rx.rxPhase = .stop := by
  rcases pushBit_cases b s with ⟨_, e⟩ | ⟨_, _, e⟩ | ⟨_, _, e⟩ <;> cases e.symm.trans h
  · exact .inl rfl
  · obtain ⟨_, _, _, _, _, hphase, _⟩ := storeByte_fields (shiftIn s.rx.rxShift b) s.rx
    by_cases hlast : s.rx.rxRemain - 1 = 0
    · exact .inr (hphase.trans (if_pos hlast))
    · exact .inl (hphase.trans (if_neg hlast))

theorem pushBit_not_sync {b : Bool} (h : pushBit b s = .next t) (hp : s.rx.rxPhase ≠ .sync) :
    t.rx.rxPhase ≠ .sync := by
  rcases pushBit_rxPhase h with e | e <;> rw [e]
  · exact hp
  · exact nofun

/-- No decode action leads back to the sync phase. -/
theorem applyAction_not_sync {a : DecAction} (h : applyAction a s = .next t) (hp : s.rx.rxPhase ≠ .sync) :
    t.rx.rxPhase ≠ .sync := by
  cases a with
  | emit0 | emit1 =>
    obtain ⟨u, hu, hv⟩ := andThen_eq_next.mp h
    cases hv
    exact pushBit_not_sync (t := u) hu hp
  | emit01 =>
    obtain ⟨u, hu, hv⟩ := andThen_eq_next.mp h
    split at hv
    · obtain ⟨v, hpush, hw⟩ := andThen_eq_next.mp hv
      cases hw
      exact pushBit_not_sync (t := v) hpush (pushBit_not_sync hu hp)
    · cases hv
      exact nofun
  | error =>
    cases h
    exact nofun

/-- Nothing that comes over the line leads back to an earlier phase. -/
theorem rxRank_keptOnLine (n : Nat) : KeptOnLine fun u => n ≤ rxRank u.rx.rxPhase where
  rxRise s t hs h := by
    unfold execRxRise at h
    split at h <;> cases h
    · exact hs
    · exact hs.trans (rxRank_le_done _)
    · simpa using hs
    · simpa using hs
  sample cOff cOn a s t hs h := by
    rcases sample_cases cOff cOn a s with ⟨_, e⟩ | ⟨_, e⟩ | ⟨hp, _⟩ | ⟨hp, e⟩
    · cases e.symm.trans h
      exact hs
    · cases e.symm.trans h
      exact hs.trans (rxRank_le_done _)
    · have hsync : n ≤ rxRank .sync := hp ▸ hs
      exact hsync.trans (Nat.zero_le _)
    · have hdata : n ≤ rxRank .data := hp ▸ hs
      exact hdata.trans (rxRank_data_le (applyAction_not_sync (e.symm.trans h) (by simp [hp])))
  rxTick s t hs h := by
    have hmiss : n ≤ rxRank (missWindow s).rx.rxPhase := by
      rcases missWindow_cases s with e | e | e <;> rw [e]
      · exact hs
      · exact hs
      · exact hs.trans (rxRank_le_done _)
    unfold execRxTick at h
    split at h
    · cases h
      exact hs
    · cases h
      exact hmiss
    · cases h
      exact hmiss
    · rcases stopWindow_cases s with e | e | e <;> cases e.symm.trans h
      · exact hs
      · exact hs.trans (rxRank_le_done _)
  frontEnd _ _ hs := hs

/-- Settles O39: the line leads forward, and any other operation but `RECEIVE` leaves the phase or disables the
receiver. -/
theorem receiverMovesForward : Obligations.ReceiverMovesForward := by
  intro s t i h hreceive
  rcases hline : Instr.isLineEvent i
  · by_cases hreset : i = .reset
    · subst hreset
      cases h
      exact rxRank_le_done _
    · rcases exec_rx_of_command h hline hreset hreceive with e | e <;> rw [e]
      exact rxRank_le_done _
  · exact (rxRank_keptOnLine _).exec hline le_rfl h

end Sys2Proof.Machine
end

section
/-! PROOF. The codec and the fade engine are apart (R152, R190, R224): each writes registers of its own, and neither
reads what the other writes, so that putting the other's registers in before an operation or after it is the same. -/

namespace Sys2Proof.Machine

variable {s t : State} {i : Instr}

/-! What the two groups of operations write. -/

/-- The codec's operations write the sequencers and the queue alone. -/
theorem exec_frame_of_codecOp (hi : Instr.isCodecOp i = true) (h : exec i s = .next t) :
    t = { s with tx := t.tx, rx := t.rx, evQ := t.evQ } := by
  cases i with
  | transmit task data => rw [execTransmit_frame h]
  | receive len task => rw [execReceive_frame h]
  | stopReceive =>
    cases h
    rfl
  | txTick => rw [execTxTick_frame h]
  | rxRise => rw [execFrontEvent_frame (e := .rise) h]
  | rxSample off on => rw [execFrontEvent_frame (e := .sample off on) h]
  | rxTick => rw [execFrontEvent_frame (e := .tick) h]
  | _ => exact nomatch hi

/-- The engine's operations write its registers and the push records alone. -/
theorem exec_frame_of_fadeOp (hi : Instr.isFadeOp i = true) (h : exec i s = .next t) :
    t = { s with fade := t.fade, pushes := t.pushes } := by
  cases i with
  | fadeSetup => rw [execFadeSetup_frame h]
  | fadeTick ledOk =>
    cases h
    rfl
  | _ => exact nomatch hi

/-! Transitions that do not see a change of the state. -/

/-- Making the change before the transition or after it is the same. -/
def Blind (change : State → State) (g : State → Host.Outcome State Fault Refusal) : Prop :=
  ∀ s, g (change s) = andThen (g s) fun t => .next (change t)

section Blind

variable {change : State → State} {g h : State → Host.Outcome State Fault Refusal}

theorem Blind.next {f : State → State} (hf : ∀ s, f (change s) = change (f s)) : Blind change fun s => .next (f s) :=
  fun s => congrArg Host.Outcome.next (hf s)

theorem Blind.andThen (hg : Blind change g) (hh : Blind change h) : Blind change fun s => andThen (g s) h := by
  intro s
  dsimp only
  rw [hg s, andThen_assoc, andThen_assoc]
  exact congrArg _ (funext hh)

theorem Blind.ite {p : State → Prop} [DecidablePred p] (hp : ∀ s, p (change s) ↔ p s) (hg : Blind change g)
    (hh : Blind change h) : Blind change fun s => if p s then g s else h s := by
  intro s
  simp only [hp s, hg s, hh s, apply_ite fun o => Machine.andThen o fun t => .next (change t)]

end Blind

/-! The engine does not see the codec. -/

/-- The state with the codec's registers put in. -/
def State.withCodec (tx : Tx) (rx : Rx) (evQ : List Event) (s : State) : State :=
  { s with tx := tx, rx := rx, evQ := evQ }

theorem exec_blind_of_fadeOp (hi : Instr.isFadeOp i = true) (tx : Tx) (rx : Rx) (evQ : List Event) :
    Blind (State.withCodec tx rx evQ) (exec i) := by
  cases i with
  | fadeSetup => exact .ite (fun _ => Iff.rfl) (fun _ => rfl) (.next fun _ => rfl)
  | fadeTick ledOk => exact .next fun _ => rfl
  | _ => exact nomatch hi

/-! The codec does not see the engine. -/

/-- The state with the engine's registers put in. -/
def State.withFade (fade : Fade) (pushes : List Push) (s : State) : State := { s with fade := fade, pushes := pushes }

section Codec

variable (fade : Fade) (pushes : List Push)

theorem noteEdge_withFade (s : State) : noteEdge (s.withFade fade pushes) = (noteEdge s).withFade fade pushes := by
  simp only [noteEdge, apply_ite (State.withFade fade pushes)]
  rfl

theorem syncSample_withFade (cOff cOn : DurClass) (s : State) :
    syncSample cOff cOn (s.withFade fade pushes) = (syncSample cOff cOn s).withFade fade pushes := by
  simp only [syncSample, apply_ite (State.withFade fade pushes)]
  rfl

theorem missWindow_withFade (s : State) :
    missWindow (s.withFade fade pushes) = (missWindow s).withFade fade pushes := by
  simp only [missWindow, apply_ite (State.withFade fade pushes)]
  rfl

theorem pushBit_blind (b : Bool) : Blind (State.withFade fade pushes) (pushBit b) :=
  .ite (fun _ => Iff.rfl) (.ite (fun _ => Iff.rfl) (.next fun _ => rfl) fun _ => rfl) (.next fun _ => rfl)

theorem applyAction_blind (a : DecAction) : Blind (State.withFade fade pushes) (applyAction a) := by
  have hpush : ∀ b, Blind (State.withFade fade pushes) fun s => andThen (pushBit b s) fun t => .next (setPrev b t) :=
    fun b => (pushBit_blind fade pushes b).andThen (.next fun _ => rfl)
  cases a with
  | emit0 | emit1 => exact hpush _
  | emit01 =>
    exact (pushBit_blind fade pushes false).andThen (.ite (fun _ => Iff.rfl) (hpush true) (.next fun _ => rfl))
  | error => exact .next fun _ => rfl

theorem sample_blind (cOff cOn : DurClass) (a : DecAction) :
    Blind (State.withFade fade pushes) (sample cOff cOn a) := by
  intro s
  have hphase : (s.withFade fade pushes).rx.rxPhase = s.rx.rxPhase := rfl
  unfold sample
  rw [hphase, noteEdge_withFade]
  cases s.rx.rxPhase with
  | done | stop => rfl
  | sync => exact congrArg Host.Outcome.next (syncSample_withFade fade pushes cOff cOn (clearMiss (noteEdge s)))
  | data => exact applyAction_blind fade pushes a (clearMiss s)

theorem stopWindow_blind : Blind (State.withFade fade pushes) stopWindow :=
  .ite (fun _ => Iff.rfl) (.ite (fun _ => Iff.rfl) (.next fun _ => rfl) fun _ => rfl) (.next fun _ => rfl)

theorem execTxTick_blind : Blind (State.withFade fade pushes) execTxTick := by
  refine .ite (fun _ => Iff.rfl) (fun _ => rfl) (.next fun s => ?_)
  simp only [apply_ite (State.withFade fade pushes)]
  rfl

theorem exec_blind_of_codecOp (hi : Instr.isCodecOp i = true) : Blind (State.withFade fade pushes) (exec i) := by
  cases i with
  | transmit task data => exact .ite (fun _ => Iff.rfl) (.next fun _ => rfl) (.next fun _ => rfl)
  | receive len task => exact .ite (fun _ => Iff.rfl) (.next fun _ => rfl) (.next fun _ => rfl)
  | stopReceive => exact .next fun _ => rfl
  | txTick => exact execTxTick_blind fade pushes
  | rxRise =>
    intro s
    have hphase : (s.withFade fade pushes).rx.rxPhase = s.rx.rxPhase := rfl
    simp only [exec, execRxRise, hphase, noteEdge_withFade]
    cases s.rx.rxPhase <;> rfl
  | rxSample off on => exact fun s => sample_blind fade pushes _ _ _ s
  | rxTick =>
    intro s
    have hphase : (s.withFade fade pushes).rx.rxPhase = s.rx.rxPhase := rfl
    simp only [exec, execRxTick, hphase, missWindow_withFade, stopWindow_blind fade pushes s]
    cases s.rx.rxPhase <;> rfl
  | _ => exact nomatch hi

end Codec

/-- Settles O41: by what the two groups write, and because neither sees what the other writes. -/
theorem codecAndFadeCommute : Obligations.CodecAndFadeCommute := by
  refine ⟨fun s t i h => ⟨fun hi => ?_, fun hi => ?_, ?_⟩, fun s a b i j hi hj ha hb => ?_⟩
  · rw [exec_frame_of_codecOp hi h]
    exact ⟨rfl, rfl⟩
  · rw [exec_frame_of_fadeOp hi h]
    exact ⟨rfl, rfl, rfl⟩
  · rintro (rfl | ⟨task, d, rfl⟩)
    · exact (congrArg State.rx (execTxTick_frame h) :)
    · exact (congrArg State.rx (execTransmit_frame h) :)
  · have hja : exec j a = .next (b.withCodec a.tx a.rx a.evQ) := by
      rw [exec_frame_of_codecOp hi ha]
      exact (exec_blind_of_fadeOp hj a.tx a.rx a.evQ s).trans (by rw [hb]; rfl)
    have hib : exec i b = .next (a.withFade b.fade b.pushes) := by
      rw [exec_frame_of_fadeOp hj hb]
      exact (exec_blind_of_codecOp b.fade b.pushes hi s).trans (by rw [ha]; rfl)
    have hsame : a.withFade b.fade b.pushes = b.withCodec a.tx a.rx a.evQ := by
      rw [exec_frame_of_codecOp hi ha, exec_frame_of_fadeOp hj hb]
      rfl
    exact ⟨_, hja, hib.trans (congrArg _ hsame)⟩

end Sys2Proof.Machine
end

section
/-! PROOF. What the receiver hears of a line whose runs are inside their windows (R91, R150, R156): the front end's
events come in groups, one for each falling edge, and the receiver notices of a group its sample alone. -/

namespace Sys2Proof.Machine

variable {s : State} {c : CodecRegs}

/-! The events of the front end, falling edge by falling edge (R91). -/

/-- The events of an on run after a gap: up to the falling edge that ends it. -/
def onRun (c : CodecRegs) (gap on : Nat) : List FrontEvent := .rise :: ticksIn c on ++ [.sample gap on]

/-- The events after a falling edge, for the durations of the off and on runs that follow; the last off run is
unbounded, and `trail` of its ticks are taken. -/
def afterFall (c : CodecRegs) (trail : Nat) : List Nat → List FrontEvent
  | off :: on :: ds => ticksIn c off ++ onRun c off on ++ afterFall c trail ds
  | _ => List.replicate trail .tick

/-- `Capture` from the first on run, cut after its falling edge. -/
theorem capture_pairUp (gap trail on : Nat) : ∀ ds : List Nat,
    capture c (pairUp (on :: ds)).1 (pairUp (on :: ds)).2 gap trail = onRun c gap on ++ afterFall c trail ds
  | [] => rfl
  | [_] => rfl
  | off :: on' :: ds => by
    have hrest := capture_pairUp off trail on' ds
    unfold capture at hrest ⊢
    show onRun c gap on ++ ticksIn c off ++ capturePairs c trail (pairUp (on' :: ds)).1 off (pairUp (on' :: ds)).2 = _
    rw [hrest]
    simp [afterFall]

/-! A receiver that hears edges. -/

/-- The receiver has just heard an edge and listens on. -/
structure Hearing (r : Rx) : Prop where
  listens : Listens r
  seen : r.rxEdgeSeen = true
  miss : r.rxMiss = 0

/-- The timeout counter at some value. -/
def State.withMiss (m : BitVec 3) (s : State) : State := { s with rx := { s.rx with rxMiss := m } }

theorem hearing_edge (hp : Listens s.rx) : Hearing (clearMiss (noteEdge s)).rx := by
  rw [clearMiss_noteEdge]
  exact ⟨hp, rfl, rfl⟩

/-- A further edge changes nothing but the timeout counter. -/
theorem Hearing.edge (h : Hearing s.rx) (m : BitVec 3) : clearMiss (noteEdge (s.withMiss m)) = s := by
  obtain ⟨_, hseen, hmiss⟩ := h
  rw [clearMiss_noteEdge, firstEdge_of_seen (by exact hseen), List.append_nil]
  simp [State.withMiss, ← hseen, ← hmiss]

/-- Windows without an edge move the timeout counter alone, as long as they are fewer than four (R156). -/
theorem ticks_of_listens (hp : Listens s.rx) (hseen : s.rx.rxEdgeSeen = true) {n : Nat}
    (hn : s.rx.rxMiss.toNat + n < 4) : ∃ m, execFrontEvents (List.replicate n .tick) s = .next (s.withMiss m) := by
  induction n generalizing s with
  | zero => exact ⟨s.rx.rxMiss, rfl⟩
  | succ n ih =>
    have hmore : s.rx.rxMiss ≠ 3 := by bv_omega
    have hnext : (s.rx.rxMiss + 1).toNat = s.rx.rxMiss.toNat + 1 := by bv_omega
    have htick : execFrontEvent .tick s = .next (s.withMiss (s.rx.rxMiss + 1)) :=
      (execRxTick_of_listens hp).trans (congrArg _ (missWindow_of_more hseen hmore))
    obtain ⟨m, hm⟩ := ih (s := s.withMiss (s.rx.rxMiss + 1)) hp hseen (by simp only [State.withMiss, hnext]; omega)
    exact ⟨m, andThen_eq_next.mpr ⟨_, htick, hm⟩⟩

theorem execRxSample_of_sync (hp : s.rx.rxPhase = .sync) (off on : Nat) :
    execRxSample off on s =
      .next (syncSample (classify s.cfg.codec off) (classify s.cfg.codec on) (clearMiss (noteEdge s))) :=
  sample_of_sync hp

theorem execRxSample_of_data (hp : s.rx.rxPhase = .data) (off on : Nat) :
    execRxSample off on s =
      applyAction (lookup s.rx.rxPrev (classify s.cfg.codec off) (classify s.cfg.codec on)) (clearMiss s) :=
  sample_of_data hp

/-- A sample clears the timeout counter before anything else, so its value does not matter (R144). -/
theorem execRxSample_withMiss (hp : Listens s.rx) (off on : Nat) (m : BitVec 3) :
    execRxSample off on (s.withMiss m) = execRxSample off on s := by
  rcases hp with hp | hp
  · rw [execRxSample_of_sync (s := s.withMiss m) hp, execRxSample_of_sync hp, clearMiss_noteEdge, clearMiss_noteEdge]
    rfl
  · rw [execRxSample_of_data (s := s.withMiss m) hp, execRxSample_of_data hp]
    rfl

/-! The groups of events. -/

/-- Every run inside a window holds at most two ticks: it ends before three half-bits have passed (R156). -/
def ShortRuns (c : CodecRegs) : Prop := ∀ d, classify c d ≠ .invalid → (d - 1) / c.halfNom ≤ 2

theorem shortRuns_calibrate {p : CodecParams} (hp : paramsWellFormed p = true) : ShortRuns (calibrate p) := by
  intro d hd
  obtain ⟨_, _, hshort⟩ := classifyWindows p d hp
  have hlt : d - 1 < nominalHalf p * 3 := by
    obtain ⟨_, hbelow⟩ : 1 ≤ d ∧ d < 3 * nominalHalf p := hshort hd
    omega
  exact Nat.le_of_lt_succ (Nat.div_lt_of_lt_mul hlt)

theorem Hearing.ticksIn (h : Hearing s.rx) (hshort : ShortRuns s.cfg.codec) {d : Nat}
    (hd : classify s.cfg.codec d ≠ .invalid) :
    ∃ m, execFrontEvents (ticksIn s.cfg.codec d) s = .next (s.withMiss m) := by
  refine ticks_of_listens h.listens h.seen ?_
  have hticks := hshort d hd
  rw [h.miss, show (0 : BitVec 3).toNat = 0 from rfl]
  omega

/-- An on run is heard as its rising edge and its sample. -/
theorem hear_onRun (hp : Listens s.rx) (hshort : ShortRuns s.cfg.codec) (gap : Nat) {on : Nat}
    (hon : classify s.cfg.codec on ≠ .invalid) :
    execFrontEvents (onRun s.cfg.codec gap on) s = execRxSample gap on (clearMiss (noteEdge s)) := by
  have hearing := hearing_edge hp
  have hcfg : (clearMiss (noteEdge s)).cfg = s.cfg := by simp
  obtain ⟨m, hm⟩ := hearing.ticksIn (by rwa [hcfg]) (by rwa [hcfg])
  rw [hcfg] at hm
  have hrise : execFrontEvent .rise s = .next (clearMiss (noteEdge s)) := execRxRise_of_listens hp
  have hsample : ∀ u, execFrontEvents [.sample gap on] u = execRxSample gap on u := by
    intro u
    show andThen (execRxSample gap on u) (fun t => .next t) = _
    cases execRxSample gap on u <;> rfl
  rw [onRun, List.cons_append, execFrontEvents, hrise, andThen_next, execFrontEvents_append, hm, andThen_next, hsample,
    execRxSample_withMiss hearing.listens]

/-- An off run and the on run after it are heard as their sample. -/
theorem Hearing.hear_pair (h : Hearing s.rx) (hshort : ShortRuns s.cfg.codec) {off on : Nat}
    (hoff : classify s.cfg.codec off ≠ .invalid) (hon : classify s.cfg.codec on ≠ .invalid) (trail : Nat)
    (ds : List Nat) :
    execFrontEvents (afterFall s.cfg.codec trail (off :: on :: ds)) s =
      andThen (execRxSample off on s) (execFrontEvents (afterFall s.cfg.codec trail ds)) := by
  obtain ⟨m, hm⟩ := h.ticksIn hshort hoff
  have hrun : execFrontEvents (onRun s.cfg.codec off on) (s.withMiss m) = execRxSample off on s := by
    have hgroup := hear_onRun (s := s.withMiss m) h.listens hshort off hon
    rwa [h.edge m] at hgroup
  rw [afterFall, execFrontEvents_append, execFrontEvents_append, hm, andThen_next, hrun]

end Sys2Proof.Machine
end

section
/-! PROOF. What the runs of a frame say (R81, R82, R85, R94, R164): cut at its falling edges, a line of cells is a list
of off and on runs, and each such pair carries one bit, or a 0 and a 1. -/

namespace Sys2Proof.Machine

/-! Grouping half-bits into runs (R18, R91). -/

theorem runLengths_replicate (l : Bool) : ∀ n, runLengths (List.replicate (n + 1) l) = [(l, n + 1)]
  | 0 => rfl
  | n + 1 => by
    rw [List.replicate_succ, runLengths, runLengths_replicate l n]
    simp

theorem runLengths_cons_ne_nil (l : Bool) (ls : List Bool) : runLengths (l :: ls) ≠ [] := by
  rw [runLengths]
  split
  · split <;> simp
  · simp

/-- A run ends where the level changes. -/
theorem runLengths_run (l : Bool) (ls : List Bool) :
    ∀ n, runLengths (List.replicate (n + 1) l ++ (!l) :: ls) = (l, n + 1) :: runLengths ((!l) :: ls)
  | 0 => by
    obtain ⟨k, rs, hruns⟩ : ∃ k rs, runLengths ((!l) :: ls) = (!l, k) :: rs := by
      rw [runLengths]
      split
      · split
        case isTrue h => exact ⟨_, _, by rw [h]⟩
        case isFalse => exact ⟨_, _, rfl⟩
      · exact ⟨_, _, rfl⟩
    rw [List.replicate_one, List.singleton_append, runLengths, hruns]
    simp
  | n + 1 => by
    rw [List.replicate_succ, List.cons_append, runLengths, runLengths_run l ls n]
    simp

/-! Durations of runs (R91, R92, R164). -/

/-- The class of a run of `n` half-bits, of which there are one or two (R89). -/
def runClass (n : Nat) : DurClass := if n = 1 then .half else .full

variable {r : CodecRegs} {ds : List Nat}

/-- Every run but the last has its duration, inside the window of its length. -/
theorem runsFit_cons {l : Bool} {n : Nat} {rs : List (Bool × Nat)} (hrs : rs ≠ []) (h : RunsFit r ((l, n) :: rs) ds) :
    ∃ d ds', ds = d :: ds' ∧ classify r d = runClass n ∧ RunsFit r rs ds' := by
  cases rs with
  | nil => exact absurd rfl hrs
  | cons run rs =>
    cases ds with
    | nil => exact h.elim
    | cons d ds' => exact ⟨d, ds', rfl, h.1, h.2⟩

/-- An off run and an on run at the start of a line have their durations. -/
theorem runsFit_pair {m n : Nat} {ls : List Bool}
    (h : RunsFit r (runLengths (List.replicate (m + 1) false ++ (List.replicate (n + 1) true ++ false :: ls))) ds) :
    ∃ off on ds', ds = off :: on :: ds' ∧ classify r off = runClass (m + 1) ∧ classify r on = runClass (n + 1)
      ∧ RunsFit r (runLengths (false :: ls)) ds' := by
  have hruns : runLengths (List.replicate (m + 1) false ++ (List.replicate (n + 1) true ++ false :: ls))
      = (false, m + 1) :: (true, n + 1) :: runLengths (false :: ls) := by
    have hon : runLengths (List.replicate (n + 1) true ++ false :: ls) = (true, n + 1) :: runLengths (false :: ls) :=
      runLengths_run true ls n
    rw [← hon]
    exact runLengths_run false _ m
  rw [hruns] at h
  obtain ⟨off, rest, rfl, hoff, h⟩ := runsFit_cons (List.cons_ne_nil _ _) h
  obtain ⟨on, ds', rfl, hon, h⟩ := runsFit_cons (runLengths_cons_ne_nil _ _) h
  exact ⟨off, on, ds', rfl, hoff, hon, h⟩

/-! The line after a falling edge. -/

/-- The level of the line from the falling edge of a sample on, with the bits that follow it: after a 1 the edge is the
middle of its cell, after a 0 the end of its cell. -/
def levelsAfterFall (stop : Nat) (prev : Bool) (bits : List Bool) : List Bool :=
  List.replicate prev.toNat false ++ (bits.flatMap bitCell ++ List.replicate stop false)

/-- The class of the off run after a falling edge, where the next bit is a 0 (R94). -/
def offBeforeZero (prev : Bool) : DurClass := if prev then .full else .half

/-- The durations of the off and on runs after a falling edge carry the bits that follow it, `prev` being the bit
before: each pair of runs is an entry of the decode table that emits the next bit or the next two (R94). -/
inductive Carries (r : CodecRegs) : Bool → List Bool → List Nat → Prop where
  | nothing (prev : Bool) : Carries r prev [] []
  | one {off on : Nat} {bits : List Bool} {ds : List Nat} : classify r off = .half → classify r on = .half →
      Carries r true bits ds → Carries r true (true :: bits) (off :: on :: ds)
  | zero {prev : Bool} {off on : Nat} {bits : List Bool} {ds : List Nat} : classify r off = offBeforeZero prev →
      classify r on = .half → Carries r false bits ds → Carries r prev (false :: bits) (off :: on :: ds)
  | zeroOne {prev : Bool} {off on : Nat} {bits : List Bool} {ds : List Nat} : classify r off = offBeforeZero prev →
      classify r on = .full → Carries r true bits ds → Carries r prev (false :: true :: bits) (off :: on :: ds)

theorem runClass_offBeforeZero (prev : Bool) : runClass (prev.toNat + 1) = offBeforeZero prev := by
  cases prev <;> rfl

/-- The off run before a 0 begins at the falling edge and takes in the first half-bit of its cell. -/
theorem levelsAfterFall_zero (stop : Nat) (prev : Bool) (bits : List Bool) :
    levelsAfterFall stop prev (false :: bits)
      = List.replicate (prev.toNat + 1) false ++ true :: levelsAfterFall stop false bits := by
  rw [List.replicate_succ']
  simp [levelsAfterFall, bitCell]

/-- A 0 before another 0, or before the stop field: its on run is a half-bit. -/
theorem runsFit_zero {stop : Nat} {prev : Bool} {bits : List Bool} (hnext : bits.head? ≠ some true)
    (h : RunsFit r (runLengths (levelsAfterFall (stop + 1) prev (false :: bits))) ds) :
    ∃ off on ds', ds = off :: on :: ds' ∧ classify r off = offBeforeZero prev ∧ classify r on = .half
      ∧ RunsFit r (runLengths (levelsAfterFall (stop + 1) false bits)) ds' := by
  obtain ⟨ls, hls⟩ : ∃ ls, levelsAfterFall (stop + 1) false bits = false :: ls := by
    rcases bits with _ | ⟨_ | _, bits⟩
    · exact ⟨_, rfl⟩
    · exact ⟨_, rfl⟩
    · exact absurd rfl hnext
  rw [levelsAfterFall_zero, hls] at h
  rw [hls, ← runClass_offBeforeZero]
  exact runsFit_pair (n := 0) h

/-- A 0 before a 1: its on run takes in the first half-bit of the next cell. -/
theorem runsFit_zeroOne {stop : Nat} {prev : Bool} {bits : List Bool}
    (h : RunsFit r (runLengths (levelsAfterFall (stop + 1) prev (false :: true :: bits))) ds) :
    ∃ off on ds', ds = off :: on :: ds' ∧ classify r off = offBeforeZero prev ∧ classify r on = .full
      ∧ RunsFit r (runLengths (levelsAfterFall (stop + 1) true bits)) ds' := by
  rw [levelsAfterFall_zero] at h
  rw [← runClass_offBeforeZero]
  exact runsFit_pair (n := 1) h

/-- Runs inside their windows carry the bits of their cells; after a 0 the next cell has to be of a 0 too, for else the
line does not fall at its start. -/
theorem carries_of_runsFit {stop : Nat} : ∀ {prev : Bool} {bits : List Bool} {ds : List Nat},
    (prev = false → bits.head? ≠ some true) →
    RunsFit r (runLengths (levelsAfterFall (stop + 1) prev bits)) ds → Carries r prev bits ds
  | prev, [], ds, _, h => by
    have hlast : levelsAfterFall (stop + 1) prev [] = List.replicate (prev.toNat + stop + 1) false :=
      List.replicate_append_replicate
    rw [hlast, runLengths_replicate] at h
    obtain rfl : ds = [] := h
    exact .nothing prev
  | false, true :: _, _, hhead, _ => absurd rfl (hhead rfl)
  | true, true :: _, _, _, h => by
    obtain ⟨_, _, _, rfl, hoff, hon, hrest⟩ := runsFit_pair (m := 0) (n := 0) h
    exact .one hoff hon (carries_of_runsFit nofun hrest)
  | _, false :: true :: _, _, _, h => by
    obtain ⟨_, _, _, rfl, hoff, hon, hrest⟩ := runsFit_zeroOne h
    exact .zeroOne hoff hon (carries_of_runsFit nofun hrest)
  | _, [false], _, _, h => by
    obtain ⟨_, _, _, rfl, hoff, hon, hrest⟩ := runsFit_zero (by simp) h
    exact .zero hoff hon (carries_of_runsFit (by simp) hrest)
  | _, false :: false :: _, _, _, h => by
    obtain ⟨_, _, _, rfl, hoff, hon, hrest⟩ := runsFit_zero (by simp) h
    exact .zero hoff hon (carries_of_runsFit (by simp) hrest)

/-- The durations of a whole frame: a half-bit on, and then what carries the rest of the sync field and the bytes. -/
theorem carries_of_frame {d : List Byte} (hsync : 2 ≤ r.nsync) (heven : r.nsync % 2 = 0) (hstop : 1 ≤ r.nstop)
    (h : RunsFit r (runLengths (frame r d)) ds) :
    ∃ on ds', ds = on :: ds' ∧ classify r on = .half ∧ Carries r true (frameBits (r.nsync / 2 - 1) d) ds' := by
  obtain ⟨k, hk⟩ : ∃ k, r.nsync = 2 * (k + 1) := ⟨r.nsync / 2 - 1, by omega⟩
  obtain ⟨stop, hn⟩ := Nat.exists_eq_add_of_le' hstop
  have hframe : frame r d = true :: levelsAfterFall (stop + 1) true (frameBits k d) := by
    rw [frame, hk, syncAndData_eq, hn]
    rfl
  have hruns : runLengths (frame r d)
      = (true, 1) :: runLengths (levelsAfterFall (stop + 1) true (frameBits k d)) := by
    rw [hframe]
    exact runLengths_run true _ 0
  rw [hruns] at h
  obtain ⟨on, ds', rfl, hon, hrest⟩ := runsFit_cons (runLengths_cons_ne_nil _ _) h
  have hpairs : r.nsync / 2 - 1 = k := by omega
  rw [hpairs]
  exact ⟨on, ds', rfl, hon, carries_of_runsFit nofun hrest⟩

end Sys2Proof.Machine
end

section
/-! PROOF. Round trip (R164): the receiver takes the bits that the runs of a frame carry, one sample after the other,
and what it has taken and what is still to come are at every moment the frame. -/

namespace Sys2Proof.Machine

/-! The bits taken so far (R31, R146). -/

/-- The bits the packer has taken: those of the stored bytes, and those of the byte it is forming. -/
def takenBits (r : Rx) : List Bool :=
  (Memory.bytes r.rxBuf r.rxByte).flatMap byteBits ++ lowBits r.rxShift r.rxBitCnt.toNat

@[simp] theorem lowBits_length (v : Byte) (n : Nat) : (lowBits v n).length = n := by
  induction n with
  | zero => rfl
  | succ n ih => rw [lowBits, List.length_cons, ih]

/-- A bit shifted in follows the bits there are. -/
theorem lowBits_shiftIn (v : Byte) (b : Bool) {n : Nat} (hn : n ≤ 7) :
    lowBits (shiftIn v b) (n + 1) = lowBits v n ++ [b] := by
  induction n with
  | zero => exact congrArg (· :: []) (shiftIn_low v b)
  | succ n ih =>
    rw [lowBits, ih (by omega), shiftIn_high v b (by omega)]
    rfl

theorem byteBits_length (v : Byte) : (byteBits v).length = 8 := rfl

theorem bits_length (d : List Byte) : (d.flatMap byteBits).length = 8 * d.length := by
  simp [List.length_flatMap, byteBits_length, Nat.mul_comm]

theorem byteBits_injective {v w : Byte} (h : byteBits v = byteBits w) : v = w := by
  refine BitVec.eq_of_getLsbD_eq fun i hi => ?_
  have hbits : ∀ j ∈ ([7, 6, 5, 4, 3, 2, 1, 0] : List Nat), v.getLsbD j = w.getLsbD j := List.map_inj_left.mp h
  exact hbits i (by simp; omega)

/-- The bits of some bytes determine them. -/
theorem flatMap_byteBits_injective {d e : List Byte} (h : d.flatMap byteBits = e.flatMap byteBits) : d = e := by
  induction d generalizing e with
  | nil =>
    have hlen := congrArg List.length h
    simp only [bits_length] at hlen
    exact (List.eq_nil_of_length_eq_zero (by simp only [List.length_nil] at hlen; omega)).symm
  | cons v d ih =>
    cases e with
    | nil => exact nomatch h
    | cons w e =>
      rw [List.flatMap_cons, List.flatMap_cons] at h
      obtain ⟨hhead, htail⟩ := List.append_inj h rfl
      rw [byteBits_injective hhead, ih htail]

theorem takenBits_length (r : Rx) : (takenBits r).length = 8 * r.rxByte + r.rxBitCnt.toNat := by
  rw [takenBits, List.length_append, bits_length, Memory.bytes_length, lowBits_length]

/-- The bytes of a buffer with one more at their end. -/
theorem Memory.bytes_write_succ {n i : Nat} {v : Byte} {m : Memory} (h : Memory.wf n m = true) :
    Memory.bytes (Memory.write m i v) (i + 1) = Memory.bytes m i ++ [v] := by
  have hrest : Memory.bytes (Memory.write m i v) i = Memory.bytes m i :=
    List.map_congr_left fun j hj => Memory.read_write_other (List.mem_range.mp hj).ne' m
  rw [← hrest]
  simp [Memory.bytes, List.range_succ, Memory.read_write_same h]

/-! A receiver inside a frame. -/

/-- The receiver has still to take `bits` of the frame `d`, in an operation of the handle `task`. -/
structure Receiving (c : Config) (task : Nat) (d : List Byte) (bits : List Bool) (r : Rx) : Prop where
  task : r.rxTask = task
  cause : r.rxCause = .none
  seen : r.rxEdgeSeen = true
  miss : r.rxMiss = 0
  canonical : Memory.wf c.nmax r.rxBuf = true
  fits : d.length ≤ c.nmax
  length : r.rxLen = d.length
  count : r.rxByte + r.rxRemain = r.rxLen
  phase : r.rxPhase = if r.rxRemain = 0 then .stop else .data
  stopCnt : r.rxStopCnt = 0
  bits : takenBits r ++ bits = d.flatMap byteBits

namespace Receiving

variable {c : Config} {task : Nat} {d : List Byte} {b : Bool} {bits : List Bool} {r : Rx} {s : State}

theorem bits_left (h : Receiving c task d bits r) : 8 * r.rxByte + r.rxBitCnt.toNat + bits.length = 8 * d.length := by
  rw [← takenBits_length, ← List.length_append, h.bits, bits_length]

/-- With a bit to come a byte is to come. -/
theorem remain_pos (h : Receiving c task d (b :: bits) r) : 0 < r.rxRemain := by
  have hleft := h.bits_left
  have hcount := h.count
  have hlen := h.length
  rw [List.length_cons] at hleft
  omega

/-- The byte that is being formed has its place in the buffer. -/
theorem byte_lt (h : Receiving c task d (b :: bits) r) : r.rxByte < c.nmax := by
  have hrem := h.remain_pos
  have hcount := h.count
  have hlen := h.length
  have hfits := h.fits
  omega

theorem data (h : Receiving c task d (b :: bits) r) : r.rxPhase = .data :=
  h.phase.trans (if_neg h.remain_pos.ne')

theorem hearing (h : Receiving c task d (b :: bits) r) : Hearing r := ⟨.inr h.data, h.seen, h.miss⟩

/-- With no bit to come the frame is complete, byte by byte. -/
theorem complete (h : Receiving c task d [] r) : r.rxPhase = .stop ∧ Memory.bytes r.rxBuf r.rxLen = d := by
  have hleft := h.bits_left
  have hcount := h.count
  have hlen := h.length
  have hbit := r.rxBitCnt.isLt
  rw [List.length_nil] at hleft
  have hnone : r.rxRemain = 0 := by omega
  have hzero : r.rxBitCnt.toNat = 0 := by omega
  have hbyte : r.rxLen = r.rxByte := by omega
  refine ⟨h.phase.trans (if_pos hnone), flatMap_byteBits_injective ?_⟩
  have htaken := h.bits
  simpa [takenBits, hzero, lowBits, ← hbyte] using htaken

theorem withPrev (h : Receiving c task d bits r) (p : Bool) : Receiving c task d bits { r with rxPrev := p } :=
  ⟨h.task, h.cause, h.seen, h.miss, h.canonical, h.fits, h.length, h.count, h.phase, h.stopCnt, h.bits⟩

/-- A bit inside a byte is shifted in. -/
theorem shifted (h : Receiving c task d (b :: bits) r) (hbit : r.rxBitCnt ≠ 7) :
    Receiving c task d bits { r with rxShift := shiftIn r.rxShift b, rxBitCnt := r.rxBitCnt + 1 } := by
  have hnext : (r.rxBitCnt + 1).toNat = r.rxBitCnt.toNat + 1 := by bv_omega
  refine ⟨h.task, h.cause, h.seen, h.miss, h.canonical, h.fits, h.length, h.count, h.phase, h.stopCnt, ?_⟩
  rw [← h.bits]
  simp only [takenBits, hnext]
  rw [lowBits_shiftIn _ _ (by have := r.rxBitCnt.isLt; omega)]
  simp

/-- The last bit of a byte stores it. -/
theorem stored (h : Receiving c task d (b :: bits) r) (hbit : r.rxBitCnt = 7) :
    Receiving c task d bits (storeByte (shiftIn r.rxShift b) r) := by
  obtain ⟨_, hbuf', hbyte', hrem', hbit', hphase', hstop'⟩ := storeByte_fields (shiftIn r.rxShift b) r
  obtain ⟨hlen', _, _, hmiss', hseen', htask', hcause'⟩ := storeByte_keeps (shiftIn r.rxShift b) r
  refine ⟨htask'.trans h.task, hcause'.trans h.cause, hseen'.trans h.seen, hmiss'.trans h.miss, ?_, h.fits,
    hlen'.trans h.length, ?_, ?_, ?_, ?_⟩
  · rw [hbuf']
    exact Memory.wf_write h.byte_lt h.canonical
  · have hrem := h.remain_pos
    have hcount := h.count
    omega
  · rw [hphase', hrem', h.data]
  · rw [hstop', h.stopCnt, ite_self]
  · have hbyteBits : byteBits (shiftIn r.rxShift b) = lowBits r.rxShift 7 ++ [b] :=
      lowBits_shiftIn r.rxShift b le_rfl
    rw [← h.bits]
    simp [takenBits, hbuf', hbyte', hbit', hbit, Memory.bytes_write_succ h.canonical, hbyteBits, lowBits]

/-- The packer takes the next bit of the frame (R146). -/
theorem pushBit (h : Receiving s.cfg task d (b :: bits) s.rx) :
    ∃ r, pushBit b s = .next { s with rx := r } ∧ Receiving s.cfg task d bits r := by
  rcases pushBit_cases b s with ⟨hbit, e⟩ | ⟨hbit, _, e⟩ | ⟨_, hfull, _⟩
  · exact ⟨_, e, h.shifted hbit⟩
  · exact ⟨_, e, h.stored hbit⟩
  · exact absurd h.byte_lt (Nat.not_lt.mpr hfull)

/-! The samples of the data phase (R94, R144). -/

/-- A sample takes its action from the table, the timeout counter being clear already. -/
theorem sample_eq (h : Receiving s.cfg task d (b :: bits) s.rx) (off on : Nat) :
    execRxSample off on s =
      applyAction (lookup s.rx.rxPrev (classify s.cfg.codec off) (classify s.cfg.codec on)) s := by
  have hmiss : clearMiss s = s := by simp only [clearMiss, ← h.miss]
  rw [execRxSample_of_data h.data, hmiss]

/-- A sample that emits the next bit. -/
theorem oneBit (h : Receiving s.cfg task d (b :: bits) s.rx) {off on : Nat}
    (ha : lookup s.rx.rxPrev (classify s.cfg.codec off) (classify s.cfg.codec on) = bitAction b) :
    ∃ r, execRxSample off on s = .next { s with rx := r } ∧ r.rxPrev = b
      ∧ Receiving s.cfg task d bits r := by
  obtain ⟨r, hr, hreceiving⟩ := h.pushBit
  rw [h.sample_eq, ha, applyAction_bitAction, hr]
  exact ⟨_, rfl, rfl, hreceiving.withPrev b⟩

/-- A sample that emits the next two bits, 0 and 1; with the 1 still to come the 0 leaves the data phase going on. -/
theorem zeroOne (h : Receiving s.cfg task d (false :: true :: bits) s.rx) {off on : Nat}
    (ha : lookup s.rx.rxPrev (classify s.cfg.codec off) (classify s.cfg.codec on) = .emit01) :
    ∃ r, execRxSample off on s = .next { s with rx := r } ∧ r.rxPrev = true
      ∧ Receiving s.cfg task d bits r := by
  obtain ⟨mid, hmid, hone⟩ := h.pushBit
  obtain ⟨r, hr, hreceiving⟩ := Receiving.pushBit (s := { s with rx := mid }) hone
  rw [h.sample_eq, ha, applyAction, hmid, andThen_next, if_pos (by exact hone.data), hr]
  exact ⟨_, rfl, rfl, hreceiving.withPrev true⟩

end Receiving

theorem lookup_one : lookup true .half .half = bitAction true := rfl

theorem lookup_zero (prev : Bool) : lookup prev (offBeforeZero prev) .half = bitAction false := by
  cases prev <;> rfl

theorem lookup_zeroOne (prev : Bool) : lookup prev (offBeforeZero prev) .full = .emit01 := by
  cases prev <;> rfl

theorem offBeforeZero_ne_invalid (prev : Bool) : offBeforeZero prev ≠ .invalid := by
  cases prev <;> simp [offBeforeZero]

variable {s : State} {task : Nat} {d : List Byte} {bits : List Bool} {ds : List Nat} {r : Rx}

/-- Durations that carry the rest of a frame have it taken to the end. -/
theorem Carries.received {prev : Bool} (h : Carries s.cfg.codec prev bits ds) (hshort : ShortRuns s.cfg.codec)
    (hr : Receiving s.cfg task d bits r) (hprev : r.rxPrev = prev) (trail : Nat) :
    ∃ r', Receiving s.cfg task d [] r' ∧
      execFrontEvents (afterFall s.cfg.codec trail ds) { s with rx := r } =
        execFrontEvents (List.replicate trail .tick) { s with rx := r' } := by
  induction h generalizing r with
  | nothing => exact ⟨r, hr, rfl⟩
  | @one off on _ _ hoff hon _ ih =>
    obtain ⟨mid, hsample, hmid, hrest⟩ := Receiving.oneBit (s := { s with rx := r }) hr (off := off) (on := on)
      (by simp only [hprev, hoff, hon, lookup_one])
    rw [Hearing.hear_pair (s := { s with rx := r }) hr.hearing hshort (by simp [hoff]) (by simp [hon]), hsample]
    exact ih hrest hmid
  | @zero prev off on _ _ hoff hon _ ih =>
    obtain ⟨mid, hsample, hmid, hrest⟩ := Receiving.oneBit (s := { s with rx := r }) hr (off := off) (on := on)
      (by simp only [hprev, hoff, hon, lookup_zero])
    rw [Hearing.hear_pair (s := { s with rx := r }) hr.hearing hshort
      (by rw [hoff]; exact offBeforeZero_ne_invalid prev) (by simp [hon]), hsample]
    exact ih hrest hmid
  | @zeroOne prev off on _ _ hoff hon _ ih =>
    obtain ⟨mid, hsample, hmid, hrest⟩ := Receiving.zeroOne (s := { s with rx := r }) hr (off := off) (on := on)
      (by simp only [hprev, hoff, hon, lookup_zeroOne])
    rw [Hearing.hear_pair (s := { s with rx := r }) hr.hearing hshort
      (by rw [hoff]; exact offBeforeZero_ne_invalid prev) (by simp [hon]), hsample]
    exact ih hrest hmid

/-! The sync field (R140). -/

/-- The receive registers with `n` sync half-bits counted. -/
def synced (c : CodecRegs) (n : Nat) (r : Rx) : Rx :=
  { r with rxSyncCnt := n, rxPhase := if c.nsync ≤ n then .data else .sync }

/-- A receiver in its sync field, the first edge being heard and the previous bit being the 1 of every sync cell. -/
structure Syncing (r : Rx) : Prop where
  seen : r.rxEdgeSeen = true
  miss : r.rxMiss = 0
  prev : r.rxPrev = true

theorem Syncing.hearing {c : CodecRegs} {n : Nat} (h : Syncing r) (hn : n < c.nsync) : Hearing (synced c n r) :=
  ⟨.inl (if_neg (Nat.not_le.mpr hn)), h.seen, h.miss⟩

/-- Each sync pair counts two half-bits, until the field is complete. -/
theorem Syncing.sample_counts {n : Nat} (h : Syncing r) (hn : n < s.cfg.codec.nsync) {off on : Nat}
    (hpair : SyncPair n (classify s.cfg.codec off) (classify s.cfg.codec on)) :
    execRxSample off on { s with rx := synced s.cfg.codec n r }
      = .next { s with rx := synced s.cfg.codec (n + 2) r } := by
  have hp : (synced s.cfg.codec n r).rxPhase = .sync := if_neg (Nat.not_le.mpr hn)
  have hedge : clearMiss (noteEdge { s with rx := synced s.cfg.codec n r }) = { s with rx := synced s.cfg.codec n r } :=
    Hearing.edge (s := { s with rx := synced s.cfg.codec n r }) (h.hearing hn) r.rxMiss
  rw [execRxSample_of_sync hp, hedge, syncSample_of_pair hpair, hp]
  simp [countPair, synced, h.prev]

/-- The rest of the sync field is heard pair by pair, and then the data phase begins. -/
theorem Carries.sync_heard {k n : Nat} (h : Carries s.cfg.codec true (List.replicate k true ++ bits) ds)
    (hr : Syncing r) (hshort : ShortRuns s.cfg.codec) (hn : n + 2 * k = s.cfg.codec.nsync) (trail : Nat) :
    ∃ ds', Carries s.cfg.codec true bits ds' ∧
      execFrontEvents (afterFall s.cfg.codec trail ds) { s with rx := synced s.cfg.codec n r } =
        execFrontEvents (afterFall s.cfg.codec trail ds') { s with rx := synced s.cfg.codec s.cfg.codec.nsync r } := by
  induction k generalizing n ds with
  | zero => exact ⟨ds, h, by rw [← hn]; rfl⟩
  | succ k ih =>
    obtain _ | ⟨hoff, hon, h⟩ := h
    have hmore : n < s.cfg.codec.nsync := by omega
    obtain ⟨ds', hcarries, hevents⟩ := ih h (n := n + 2) (by omega)
    refine ⟨ds', hcarries, ?_⟩
    rw [Hearing.hear_pair (s := { s with rx := synced s.cfg.codec n r }) (hr.hearing hmore) hshort
      (by simp [hoff]) (by simp [hon]), hr.sample_counts hmore ⟨hon, .inr hoff⟩]
    exact hevents

/-! The stop field (R150, R154, R158). -/

/-- The last idle windows deliver the frame. -/
theorem ticks_deliver (hp : s.rx.rxPhase = .stop) (hlen : s.rx.rxLen ≤ s.cfg.nmax) {n : Nat}
    (hn : s.rx.rxStopCnt + (n + 1) = s.cfg.codec.nstop) :
    execFrontEvents (List.replicate (n + 1) .tick) s =
      .next (post s.rx.rxTask .recvDone (Memory.bytes s.rx.rxBuf s.rx.rxLen)
        { s with rx := { s.rx with rxStopCnt := s.cfg.codec.nstop, rxPhase := .done } }) := by
  have htick : execFrontEvent .tick s = stopWindow s := execRxTick_of_stop hp
  induction n generalizing s with
  | zero =>
    rw [List.replicate_one, execFrontEvents, htick, stopWindow_of_last hn hlen, ← hn]
    rfl
  | succ n ih =>
    rw [List.replicate_succ, execFrontEvents, htick, stopWindow_of_more (by omega), andThen_next]
    exact ih (s := { s with rx := { s.rx with rxStopCnt := s.rx.rxStopCnt + 1 } }) hp hlen
      (by dsimp only; omega) (execRxTick_of_stop hp)

/-- Durations that carry the rest of a frame have it delivered. -/
theorem Carries.delivered {prev : Bool} (h : Carries s.cfg.codec prev bits ds) (hshort : ShortRuns s.cfg.codec)
    (hr : Receiving s.cfg task d bits r) (hprev : r.rxPrev = prev) (hstop : 1 ≤ s.cfg.codec.nstop) :
    ∃ t, execFrontEvents (afterFall s.cfg.codec s.cfg.codec.nstop ds) { s with rx := r } = .next t
      ∧ t.evQ = s.evQ ++ [⟨task, .recvDone, d⟩] ∧ t.rx.rxCause = .none ∧ t.rx.rxPhase = .done := by
  obtain ⟨r', hr', htaken⟩ := h.received hshort hr hprev s.cfg.codec.nstop
  obtain ⟨hphase, hbytes⟩ := hr'.complete
  obtain ⟨n, hn⟩ := Nat.exists_eq_add_of_le' hstop
  have hdeliver := ticks_deliver (s := { s with rx := r' }) (n := n) hphase (hr'.length.trans_le hr'.fits)
    (by dsimp only; rw [hr'.stopCnt, hn, Nat.zero_add])
  rw [← hn] at hdeliver
  exact ⟨_, htaken.trans hdeliver, by simp [hr'.task, hbytes], hr'.cause, rfl⟩

/-! A whole frame. -/

/-- What the codec needs of its parameters (R8, R9, R156). -/
theorem codec_of_paramsWellFormed {p : CodecParams} (h : paramsWellFormed p = true) :
    2 ≤ (calibrate p).nsync ∧ (calibrate p).nsync % 2 = 0 ∧ 1 ≤ (calibrate p).nstop := by
  simp only [paramsWellFormed, decide_eq_true_eq] at h
  obtain ⟨hsync, heven, hstop, _⟩ := h
  exact ⟨hsync, heven, hstop⟩

/-- The receive registers after the first edge of an operation for `len` bytes. -/
def alerted (len task : Nat) (r : Rx) : Rx := { rearm len task r with rxEdgeSeen := true }

theorem alerted_syncing (len task : Nat) (r : Rx) : Syncing (alerted len task r) := ⟨rfl, rfl, rfl⟩

/-- The events of a frame, up to the end of its sync field. -/
theorem frame_synced {on gap trail : Nat} {len : Nat} (hshort : ShortRuns s.cfg.codec)
    (hsync : 2 ≤ s.cfg.codec.nsync) (heven : s.cfg.codec.nsync % 2 = 0) (hon : classify s.cfg.codec on = .half)
    (h : Carries s.cfg.codec true (List.replicate (s.cfg.codec.nsync / 2 - 1) true ++ bits) ds) :
    ∃ ds', Carries s.cfg.codec true bits ds' ∧
      execFrontEvents (onRun s.cfg.codec gap on ++ afterFall s.cfg.codec trail ds)
          { s with rx := rearm len task s.rx } =
        execFrontEvents (afterFall s.cfg.codec trail ds')
          { post task .recvEdge [] s with rx := synced s.cfg.codec s.cfg.codec.nsync (alerted len task s.rx) } := by
  have hpos : 0 < s.cfg.codec.nsync := by omega
  have hzero : synced s.cfg.codec 0 (alerted len task s.rx) = alerted len task s.rx := by
    simp only [synced, if_neg (Nat.not_le.mpr hpos)]
    rfl
  have hedge : clearMiss (noteEdge { s with rx := rearm len task s.rx })
      = { post task .recvEdge [] s with rx := synced s.cfg.codec 0 (alerted len task s.rx) } := by
    rw [clearMiss_noteEdge, hzero]
    rfl
  have hsample : execRxSample gap on (clearMiss (noteEdge { s with rx := rearm len task s.rx })) =
      .next { post task .recvEdge [] s with rx := synced s.cfg.codec 2 (alerted len task s.rx) } := by
    rw [hedge]
    exact (alerted_syncing len task s.rx).sample_counts (s := post task .recvEdge [] s) hpos ⟨hon, .inl rfl⟩
  have hfirst := (hear_onRun (s := { s with rx := rearm len task s.rx }) (.inl rfl) hshort gap
    (by simp [hon])).trans hsample
  rw [execFrontEvents_append, hfirst]
  exact Carries.sync_heard (s := post task .recvEdge [] s) h (alerted_syncing len task s.rx) hshort
    (by rw [post_cfg]; omega) trail

/-- Right after the sync field the whole frame is still to be taken. -/
theorem receiving_of_synced (hmax : d.length ≤ s.cfg.nmax) (hbuf : Memory.wf s.cfg.nmax s.rx.rxBuf = true)
    (hpos : 1 ≤ d.length) :
    Receiving s.cfg task d (d.flatMap byteBits)
      (synced s.cfg.codec s.cfg.codec.nsync (alerted d.length task s.rx)) where
  task := rfl
  cause := rfl
  seen := rfl
  miss := rfl
  canonical := hbuf
  fits := hmax
  length := rfl
  count := Nat.zero_add _
  phase := (if_pos le_rfl).trans (if_neg (Nat.ne_of_gt hpos)).symm
  stopCnt := rfl
  bits := rfl

/-- Settles O42: the runs of the frame carry its sync field and its bits, the receiver takes them sample by sample, and
the stop field delivers them. -/
theorem roundTrip : Obligations.RoundTrip := by
  intro s p d task gap durations hp hcodec hbuf htx hpos hmax hfit
  obtain ⟨hsync, heven, hstop⟩ : 2 ≤ s.cfg.codec.nsync ∧ s.cfg.codec.nsync % 2 = 0 ∧ 1 ≤ s.cfg.codec.nstop := by
    rw [hcodec]
    exact codec_of_paramsWellFormed hp
  have hshort : ShortRuns s.cfg.codec := by
    rw [hcodec]
    exact shortRuns_calibrate hp
  have harm : exec (.receive d.length task) s = .next { s with rx := rearm d.length task s.rx } :=
    execReceive_of_accepted ⟨htx, hpos, hmax⟩
  obtain ⟨on, ds, rfl, hon, hcarries⟩ := carries_of_frame hsync heven hstop hfit
  obtain ⟨ds', hbits, hsynced⟩ := frame_synced (task := task) (gap := gap) (trail := s.cfg.codec.nstop)
    (len := d.length) hshort hsync heven hon hcarries
  obtain ⟨t, ht, hevQ, hcause, hphase⟩ := Carries.delivered (s := post task .recvEdge [] s) hbits hshort
    (receiving_of_synced (task := task) hmax hbuf hpos) rfl hstop
  refine ⟨t, ?_, ?_, hcause, hphase⟩
  · rw [harm, andThen_next, capture_pairUp, hsynced]
    exact ht
  · rw [hevQ, post_evQ, List.append_assoc]
    rfl

end Sys2Proof.Machine
end

section
/-! PROOF. The steps of a level toward its target (R171): each comes one step nearer, `Dist` counts them, and the loop
of a tick takes as many as the counter pays for (R186, R188). -/

namespace Sys2Proof.Machine

variable {d : Direction} {m r a : Level}

/-! One step toward the target. -/

/-- The level has not passed its target, in the direction of the ramp. -/
def Toward (d : Direction) (r a : Level) : Prop :=
  match d with
  | .up => a ≤ r
  | .down => r ≤ a

/-- The direction a setup takes from `a` to `r` (R174). -/
def directionTo (a r : Level) : Direction := if r > a then .up else .down

theorem toward_directionTo (a r : Level) : Toward (directionTo a r) r a := by
  unfold directionTo
  split
  case isTrue h => exact BitVec.le_of_lt h
  case isFalse h => exact BitVec.not_lt.mp h

/-! `Dist` in each direction (R171). -/

theorem dist_self : dist m a a = 0 := by
  unfold dist
  rw [if_neg (BitVec.lt_irrefl a), if_neg (BitVec.lt_irrefl a)]

theorem dist_up_zero (h : 0 < r) : dist m 0 r = 1 + (r.toNat - m.toNat) := by
  unfold dist
  rw [if_pos h, if_pos rfl]

theorem dist_up (h : a < r) (h0 : a ≠ 0) : dist m a r = r.toNat - a.toNat := by
  unfold dist
  rw [if_pos h, if_neg h0]

theorem dist_down_zero (h : 0 < a) : dist m a 0 = if a ≤ m then 1 else a.toNat - m.toNat + 1 := by
  unfold dist
  rw [if_neg (by bv_omega), if_pos h, if_pos rfl]

theorem dist_down (h : r < a) (h0 : r ≠ 0) : dist m a r = a.toNat - r.toNat := by
  unfold dist
  rw [if_neg (by bv_omega), if_pos h, if_neg h0]

/-- A level that has not passed its target is before it until it is there. -/
theorem Toward.before_iff (h : Toward d r a) : Before d r a ↔ a ≠ r := by
  cases d
  case down =>
    change r ≤ a at h
    show r < a ↔ _
    constructor <;> intro _ <;> bv_omega
  case up =>
    change a ≤ r at h
    show a < r ↔ _
    constructor <;> intro _ <;> bv_omega

/-- A step never passes a target that the lower limit allows (R171, R195). -/
theorem toward_stepLevel (hr : r = 0 ∨ m ≤ r) (h : Before d r a) : Toward d r (stepLevel d m a) := by
  cases d
  case down => exact le_stepDown h hr
  case up =>
    change a < r at h
    exact stepUp_le h (hr.resolve_left (by bv_omega))

/-- A step up comes one step nearer: from off to the lower limit, and by one level from there (R171). -/
theorem dist_stepUp (hm : m ≠ 0) (hr : m ≤ r) (h : a < r) : dist m (stepUp m a) r + 1 = dist m a r := by
  unfold stepUp
  split
  case isTrue h0 =>
    subst h0
    rw [dist_up_zero h]
    by_cases hlim : m = r
    · rw [hlim, dist_self]
      omega
    · rw [dist_up (by bv_omega) hm]
      bv_omega
  case isFalse h0 =>
    rw [dist_up h h0]
    by_cases hlast : a + 1 = r
    · rw [hlast, dist_self]
      bv_omega
    · rw [dist_up (by bv_omega) (by bv_omega)]
      bv_omega

/-- A step down comes one step nearer: by one level to the lower limit, and to off from there (R171). -/
theorem dist_stepDown (hm : m ≠ 0) (hr : r = 0 ∨ m ≤ r) (h : r < a) :
    dist m (stepDown m a) r + 1 = dist m a r := by
  unfold stepDown
  split
  case isTrue hle =>
    obtain rfl : r = 0 := hr.resolve_right (by bv_omega)
    rw [dist_self, dist_down_zero h, if_pos hle]
  case isFalse hgt =>
    by_cases h0 : r = 0
    · subst h0
      rw [dist_down_zero h, if_neg hgt, dist_down_zero (by bv_omega)]
      split <;> bv_omega
    · rw [dist_down h h0]
      by_cases hlast : a - 1 = r
      · rw [hlast, dist_self]
        bv_omega
      · rw [dist_down (by bv_omega) h0]
        bv_omega

theorem dist_stepLevel (hm : m ≠ 0) (hr : r = 0 ∨ m ≤ r) (h : Before d r a) :
    dist m (stepLevel d m a) r + 1 = dist m a r := by
  cases d
  case down => exact dist_stepDown hm hr h
  case up =>
    change a < r at h
    exact dist_stepUp hm (hr.resolve_left (by bv_omega)) h

theorem dist_pos (hm : m ≠ 0) (hr : r = 0 ∨ m ≤ r) (ht : Toward d r a) (h : a ≠ r) : 0 < dist m a r :=
  (dist_stepLevel hm hr (ht.before_iff.mpr h)).symm ▸ Nat.succ_pos _

/-! Many steps toward the target. -/

@[simp] theorem stepLevels_zero : stepLevels d m 0 a = a := rfl

theorem stepLevels_succ (n : Nat) : stepLevels d m (n + 1) a = stepLevels d m n (stepLevel d m a) := rfl

theorem stepLevels_add (j : Nat) : ∀ (n : Nat) {a : Level},
    stepLevels d m (n + j) a = stepLevels d m j (stepLevels d m n a)
  | 0, _ => by rw [Nat.zero_add, stepLevels_zero]
  | n + 1, _ => by rw [Nat.add_right_comm, stepLevels_succ, stepLevels_add j n, stepLevels_succ]

/-- Up to the distance, `n` steps come `n` steps nearer and do not pass the target (R171). -/
theorem stepLevels_nearer (hm : m ≠ 0) (hr : r = 0 ∨ m ≤ r) : ∀ {n : Nat} {a : Level}, Toward d r a →
    n ≤ dist m a r → Toward d r (stepLevels d m n a) ∧ dist m (stepLevels d m n a) r + n = dist m a r
  | 0, _, ht, _ => ⟨ht, rfl⟩
  | n + 1, a, ht, hn => by
    have hne : a ≠ r := by
      rintro rfl
      rw [dist_self] at hn
      omega
    have hb := ht.before_iff.mpr hne
    have hstep := dist_stepLevel hm hr hb
    obtain ⟨htoward, hdist⟩ := stepLevels_nearer hm hr (n := n) (toward_stepLevel hr hb) (by omega)
    exact ⟨htoward, by rw [stepLevels_succ]; omega⟩

/-- The level is before its target until it has taken as many steps as the distance, and no longer. -/
theorem before_stepLevels_iff (hm : m ≠ 0) (hr : r = 0 ∨ m ≤ r) (ht : Toward d r a) {n : Nat}
    (hn : n ≤ dist m a r) : Before d r (stepLevels d m n a) ↔ n < dist m a r := by
  obtain ⟨htoward, hdist⟩ := stepLevels_nearer hm hr ht hn
  rw [htoward.before_iff]
  constructor
  · intro hne
    have := dist_pos hm hr htoward hne
    omega
  · intro hlt he
    rw [he, dist_self] at hdist
    omega

/-- As many steps as the distance lead to the target (R171). -/
theorem stepLevels_dist (hm : m ≠ 0) (hr : r = 0 ∨ m ≤ r) (ht : Toward d r a) :
    stepLevels d m (dist m a r) a = r := by
  have hend := mt (before_stepLevels_iff hm hr ht (Nat.le_refl _)).mp (Nat.lt_irrefl _)
  rwa [(stepLevels_nearer hm hr ht (Nat.le_refl _)).1.before_iff, not_not] at hend

/-- Settles O54: every step comes one step nearer, so the target is reached after `Dist` steps and not before. -/
theorem distCountsSteps : Obligations.DistCountsSteps := by
  intro m a r hm hr
  have ht := toward_directionTo a r
  refine ⟨stepLevels_dist hm hr ht, fun n hn => ?_⟩
  have htoward := (stepLevels_nearer hm hr ht hn.le).1
  exact htoward.before_iff.mp ((before_stepLevels_iff hm hr ht hn.le).mpr hn)

end Sys2Proof.Machine
end

section
/-! PROOF. The loop of a tick (R186, R188), in both directions at once: it takes as many steps as the counter pays for,
but none past the target. -/

namespace Sys2Proof.Machine

variable {d : Direction} {inc k : Micros} {m r a : Level}

/-- The `while` loop of a tick, in the direction of the ramp (R186). -/
def rampLoop (d : Direction) (inc : Micros) (m r a : Level) (k : Micros) : Level × Micros :=
  match d with
  | .up => climb inc m r levelTurns a k
  | .down => descend inc m r levelTurns a k

theorem moveLevel_eq_rampLoop (p : FadeParams) (f : Fade) :
    moveLevel p f =
      rampLoop f.fadeDirection f.fadeIncrement f.minLevel f.requestedLevel f.actualLevel (f.fadeCounter + p.tickUs) := by
  unfold moveLevel rampLoop
  split <;> simp [*]

/-! One turn of the loop. -/

/-- A turn steps the level and pays for the step, unless a step up stands still and costs nothing. -/
theorem rampLoop_turn (hlive : m ≠ 0 ∨ inc ≠ 0 ∨ a ≠ 0) (hk : inc ≤ k) (hb : Before d r a) :
    rampLoop d inc m r a k = rampLoop d inc m r (stepLevel d m a) (k - inc) := by
  cases d
  case down => exact descend_loop.trans (if_pos ⟨hk, hb⟩)
  case up =>
    by_cases hmove : m ≠ 0 ∨ a ≠ 0
    · exact (climb_loop hmove).trans (if_pos ⟨hk, hb⟩)
    · obtain ⟨rfl, rfl⟩ : m = 0 ∧ a = 0 := by simpa using hmove
      exact (climb_loop_in_place (by simpa using hlive)).trans (if_pos ⟨hk, hb⟩)

/-- The loop stops where the counter holds no whole increment or the target is reached. -/
theorem rampLoop_stop (h : ¬ (inc ≤ k ∧ Before d r a)) : rampLoop d inc m r a k = (a, k) := by
  cases d
  case down => exact (descend_turn inc m r 255 a k).trans (if_neg h)
  case up => exact (climb_turn inc m r 255 a k).trans (if_neg h)

/-! The whole loop. -/

/-- How far a level is from its target, in level values. -/
def levelGap (d : Direction) (r a : Level) : Nat :=
  match d with
  | .up => r.toNat - a.toNat
  | .down => a.toNat - r.toNat

/-- A step closes the gap, unless it stands still. -/
theorem levelGap_stepLevel_lt (h : Before d r a) (hmove : m ≠ 0 ∨ a ≠ 0) :
    levelGap d r (stepLevel d m a) < levelGap d r a := by
  cases d
  case down =>
    have hstep : (stepDown m a).toNat < a.toNat := stepDown_lt h
    have hb : r.toNat < a.toNat := h
    show (stepDown m a).toNat - r.toNat < a.toNat - r.toNat
    omega
  case up =>
    have hstep : a.toNat < (stepUp m a).toNat := lt_stepUp h hmove
    have hb : a.toNat < r.toNat := h
    show r.toNat - (stepUp m a).toNat < r.toNat - a.toNat
    omega

/-- A turn uses up the gap or the counter. -/
theorem levelGap_add_counter_lt (hlive : m ≠ 0 ∨ inc ≠ 0) (hk : inc ≤ k) (hb : Before d r a) :
    levelGap d r (stepLevel d m a) + (k - inc).toNat < levelGap d r a + k.toNat := by
  have hk' : (k - inc).toNat = k.toNat - inc.toNat := BitVec.toNat_sub_of_le hk
  by_cases hmove : m ≠ 0 ∨ a ≠ 0
  · have := levelGap_stepLevel_lt hb hmove
    omega
  · obtain ⟨rfl, rfl⟩ : m = 0 ∧ a = 0 := by simpa using hmove
    have hstand : stepLevel d 0 0 = 0 := by cases d <;> rfl
    rw [hstand]
    bv_omega

/-- The loop, started with the counter `k`, has taken `n` steps from `a`: each was paid for and started before the
target, and a further one was not possible (R186, R188). -/
structure LoopTook (d : Direction) (inc : Micros) (m r a : Level) (k : Nat) (n : Nat) (out : Level × Micros) : Prop where
  level : out.1 = stepLevels d m n a
  counter : out.2.toNat + n * inc.toNat = k
  before : ∀ j, j < n → Before d r (stepLevels d m j a)
  ended : out.2.toNat < inc.toNat ∨ ¬ Before d r out.1

theorem loopTook_zero (h : ¬ (inc ≤ k ∧ Before d r a)) : LoopTook d inc m r a k.toNat 0 (a, k) where
  level := rfl
  counter := by rw [Nat.zero_mul, Nat.add_zero]
  before _ hj := absurd hj (Nat.not_lt_zero _)
  ended := (not_and_or.mp h).imp BitVec.not_le.mp id

theorem LoopTook.succ {n : Nat} {out : Level × Micros} (hk : inc ≤ k) (hb : Before d r a)
    (h : LoopTook d inc m r (stepLevel d m a) (k - inc).toNat n out) :
    LoopTook d inc m r a k.toNat (n + 1) out where
  level := h.level
  counter := by
    have hpaid := h.counter
    have hle : inc.toNat ≤ k.toNat := hk
    rw [BitVec.toNat_sub_of_le hk] at hpaid
    rw [Nat.succ_mul]
    omega
  before
    | 0, _ => hb
    | j + 1, hj => h.before j (Nat.lt_of_succ_lt_succ hj)
  ended := h.ended

/-- What the loop does where its turns move the level or lower the counter: in every case but that of U6. -/
theorem rampLoop_took (hlive : m ≠ 0 ∨ inc ≠ 0) (a : Level) (k : Micros) :
    ∃ n, LoopTook d inc m r a k.toNat n (rampLoop d inc m r a k) := by
  by_cases hturn : inc ≤ k ∧ Before d r a
  · obtain ⟨hk, hb⟩ := hturn
    obtain ⟨n, hn⟩ := rampLoop_took hlive (stepLevel d m a) (k - inc)
    rw [rampLoop_turn (hlive.imp_right .inl) hk hb]
    exact ⟨n + 1, hn.succ hk hb⟩
  · rw [rampLoop_stop hturn]
    exact ⟨0, loopTook_zero hturn⟩
termination_by levelGap d r a + k.toNat
decreasing_by exact levelGap_add_counter_lt hlive hk hb

theorem not_before_self : ¬ Before d r r := by cases d <;> exact BitVec.lt_irrefl r

/-- U6: with no lower limit and no increment the loop runs straight to the target, and the counter is kept. -/
theorem rampLoop_free {a : Level} (hb : Before d r a) : rampLoop d 0 0 r a k = (r, k) := by
  have hpaid : (0 : Micros) ≤ k := Nat.zero_le _
  by_cases hstand : d = .up ∧ a = 0
  · obtain ⟨rfl, rfl⟩ := hstand
    exact (climb_turn 0 0 r 255 0 k).trans (if_pos ⟨hpaid, hb⟩)
  · have ha : a ≠ 0 := by
      rintro rfl
      cases d
      case down => exact absurd hb BitVec.not_lt_zero
      case up => exact hstand ⟨rfl, rfl⟩
    have htoward : Toward d r (stepLevel d 0 a) := toward_stepLevel (.inr (Nat.zero_le _)) hb
    rw [rampLoop_turn (.inr (.inr ha)) hpaid hb, show k - 0 = k from BitVec.sub_zero k]
    by_cases hthere : stepLevel d 0 a = r
    · rw [hthere]
      exact rampLoop_stop fun h => not_before_self h.2
    · exact rampLoop_free (htoward.before_iff.mpr hthere)
termination_by levelGap d r a
decreasing_by exact levelGap_stepLevel_lt hb (.inr ha)

end Sys2Proof.Machine
end

section
/-! PROOF. What `FADE_SETUP` does (R174, R180, R182, R184) and when it is refused (U2). -/

namespace Sys2Proof.Machine

/-- Settles O51: without a request the setup is the identity, and with one it checks what the host has loaded. -/
theorem setupWithoutRequest : Obligations.SetupWithoutRequest := by
  intro s
  refine ⟨fun hreq => ?_, fun hreq hload => ?_⟩
  · rcases execFadeSetup_cases s with ⟨h, _⟩ | ⟨_, e⟩ | ⟨h, _⟩
    · exact nomatch hreq.symm.trans h
    · exact e
    · exact nomatch hreq.symm.trans h
  · have hnot : parametersLoaded s.loaded = false := by
      unfold parametersLoaded
      rcases hload with h | h | h | h | h | h <;> simp [h]
    rcases execFadeSetup_cases s with ⟨_, _, e⟩ | ⟨h, _⟩ | ⟨_, h, _⟩
    · exact e
    · exact nomatch hreq.symm.trans h
    · exact nomatch hnot.symm.trans h

/-! The clamp (R172), in the words of the statements. -/

theorem clamp_level (lo hi v : Level) :
    (clamp lo hi v).1 = if v = 0 then 0 else if v < lo then lo else if v > hi then hi else v := by
  unfold clamp
  split_ifs <;> rfl

theorem clamp_limitError (lo hi v : Level) :
    (clamp lo hi v).2 = decide (v ≠ 0 ∧ (v < lo ∨ v > hi)) := by
  unfold clamp
  split
  case isTrue h0 => exact (decide_eq_false fun h => h.1 h0).symm
  case isFalse h0 =>
    split
    case isTrue hlo => exact (decide_eq_true ⟨h0, .inl hlo⟩).symm
    case isFalse hlo =>
      split
      case isTrue hhi => exact (decide_eq_true ⟨h0, .inr hhi⟩).symm
      case isFalse hhi => exact (decide_eq_false fun h => h.2.elim hlo hhi).symm

/-- The clamped target of a setup, and its limit error (R172, R174). -/
def clampRequest (f : Fade) : Fade :=
  { f with
    limitError := (clamp f.minLevel f.maxLevel f.requestedLevel).2
    requestedLevel := (clamp f.minLevel f.maxLevel f.requestedLevel).1 }

/-! The two outcomes of a setup with a request. -/

/-- How many steps lead from the level to its target (R171). -/
def rampDistance (f : Fade) : Nat := dist f.minLevel f.actualLevel f.requestedLevel

/-- A setup takes its target at once (R180): there is at most one step to take, or no time for it. -/
def AtOnce (p : FadeParams) (f : Fade) : Prop := rampDistance f ≤ 1 ∨ setupPeriod p f = 0

/-- The registers of a ramp that starts (R174, R182). -/
def beginRamp (p : FadeParams) (f : Fade) : Fade :=
  { f with
    fadeMode := if f.fadeRateRequested then .rate else .time
    fadeDirection := directionTo f.actualLevel f.requestedLevel
    fadePeriod := setupPeriod p f
    fadeIncrement := setupIncrement p f (rampDistance f)
    fadeCounter := 0
    fadeRunning := true }

/-- The requests are served (R174). -/
def dropRequests (f : Fade) : Fade := { f with fadeRateRequested := false, outputChangeRequested := false }

variable {p : FadeParams} {f : Fade}

theorem startRamp_at_once (h : AtOnce p f) :
    startRamp p f.requestedLevel f = clearRamp { f with actualLevel := f.requestedLevel } := if_pos h

theorem startRamp_ramp (h : ¬ AtOnce p f) : startRamp p f.requestedLevel f = beginRamp p f := if_neg h

theorem setupFade_eq_dropRequests (hreq : f.outputChangeRequested = true) :
    setupFade p f = dropRequests (startRamp p (clampRequest f).requestedLevel (clampRequest f)) :=
  setupFade_of_request hreq

theorem setupFade_at_once (hreq : f.outputChangeRequested = true) (h : AtOnce p (clampRequest f)) :
    setupFade p f =
      dropRequests (clearRamp { clampRequest f with actualLevel := (clampRequest f).requestedLevel }) := by
  rw [setupFade_eq_dropRequests hreq, startRamp_at_once h]

theorem setupFade_ramp (hreq : f.outputChangeRequested = true) (h : ¬ AtOnce p (clampRequest f)) :
    setupFade p f = dropRequests (beginRamp p (clampRequest f)) := by
  rw [setupFade_eq_dropRequests hreq, startRamp_ramp h]

/-- A setup with a request and every parameter loaded completes (R174, R244). -/
theorem execFadeSetup_of_loaded {s : State} (hreq : s.fade.outputChangeRequested = true)
    (hload : s.loaded = ⟨true, true, true, true, true, true⟩) :
    exec .fadeSetup s = .next { s with fade := setupFade s.cfg.fade s.fade } := by
  rcases execFadeSetup_cases s with ⟨_, h, _⟩ | ⟨h, _⟩ | ⟨_, _, e⟩
  · rw [hload] at h
    exact nomatch h
  · exact nomatch hreq.symm.trans h
  · exact e

/-- The clamped request in the words of the statements (R172). -/
theorem clampRequest_eq (f : Fade) :
    clampRequest f = { f with
      limitError := decide (f.requestedLevel ≠ 0 ∧ (f.requestedLevel < f.minLevel ∨ f.requestedLevel > f.maxLevel))
      requestedLevel := if f.requestedLevel = 0 then 0
        else if f.requestedLevel < f.minLevel then f.minLevel
        else if f.requestedLevel > f.maxLevel then f.maxLevel else f.requestedLevel } := by
  rw [← clamp_level, ← clamp_limitError]
  rfl

/-- Settles O52: the setup takes its target at once. -/
theorem setupAtOnce : Obligations.SetupAtOnce := by
  intro s hreq hload f r hshort
  have hat : AtOnce s.cfg.fade (clampRequest s.fade) := by
    rw [clampRequest_eq]
    exact hshort
  rw [execFadeSetup_of_loaded hreq hload, setupFade_at_once hreq hat, clampRequest_eq]
  rfl

/-- Settles O53: the setup does not take its target at once, so it starts a ramp. -/
theorem setupStartsRamp : Obligations.SetupStartsRamp := by
  intro s hreq hload f p r d period hlong hperiod
  have hnot : ¬ AtOnce s.cfg.fade (clampRequest s.fade) := by
    rw [clampRequest_eq]
    exact not_or.mpr ⟨Nat.not_le.mpr hlong, hperiod⟩
  rw [execFadeSetup_of_loaded hreq hload, setupFade_ramp hreq hnot, clampRequest_eq]
  rfl

end Sys2Proof.Machine
end

section
/-! PROOF. What `FADE_TICK` does with a ramp and without one (R186, R188, R192, R194). -/

namespace Sys2Proof.Machine

variable {p : FadeParams} {f : Fade} {s : State}

theorem exec_fadeTick_idle (ledOk : Bool) (h : s.fade.fadeRunning = false) :
    exec (.fadeTick ledOk) s = .next (driveState ledOk s.fade s) :=
  congrArg (fun g => Host.Outcome.next (driveState ledOk g s)) (if_neg (Bool.eq_false_iff.mp h))

theorem exec_fadeTick_running (ledOk : Bool) (h : s.fade.fadeRunning = true) :
    exec (.fadeTick ledOk) s = .next (driveState ledOk (stepRamp s.cfg.fade s.fade) s) :=
  congrArg (fun g => Host.Outcome.next (driveState ledOk g s)) (if_pos h)

/-- Settles O55: without a ramp the tick runs its output half alone. -/
theorem tickWithoutRamp : Obligations.TickWithoutRamp := by
  intro s ledOk hidle f out on
  exact exec_fadeTick_idle ledOk hidle

/-! The end of a ramp (R186, R196). -/

theorem reached_iff : reached f = true ↔ ¬ Before f.fadeDirection f.requestedLevel f.actualLevel := by
  unfold reached Before
  cases f.fadeDirection with
  | down => exact decide_eq_true_iff.trans BitVec.not_lt.symm
  | up => exact decide_eq_true_iff.trans BitVec.not_lt.symm

theorem remaining_eq_zero_iff : remaining p f = 0 ↔ f.fadePeriod ≤ p.tickUs := by
  unfold remaining
  split
  case isTrue h => exact iff_of_true rfl h
  case isFalse h => exact iff_of_false (by bv_omega) h

/-- A tick that moves the level to `a` ends the ramp: on arrival, or when the period is used up (R186, R196). -/
def TickEnds (p : FadeParams) (f : Fade) (a : Level) : Prop :=
  (f.fadeMode = .time ∧ ¬ Before f.fadeDirection f.requestedLevel a) ∨ (f.fadeMode = .rate ∧ f.fadePeriod ≤ p.tickUs)

/-- The period after a tick that does not end the ramp: a fade-rate ramp uses it up (R186). -/
def periodAfter (p : FadeParams) (f : Fade) : Micros :=
  if f.fadeMode = .rate then f.fadePeriod - p.tickUs else f.fadePeriod

/-- The end of a tick clears the ramp, or takes the tick from the period. -/
theorem endTick_eq (p : FadeParams) (f : Fade) :
    (TickEnds p f f.actualLevel ∧ endTick p f = clearRamp f)
    ∨ (¬ TickEnds p f f.actualLevel ∧ endTick p f = { f with fadePeriod := periodAfter p f }) := by
  rcases endTick_cases p f with ⟨hmode, h, e⟩ | ⟨hmode, h, e⟩ | ⟨hmode, h, e⟩ | ⟨hmode, h, e⟩
  · exact .inl ⟨.inl ⟨hmode, reached_iff.mp h⟩, e⟩
  · rw [Bool.eq_false_iff, ne_eq, reached_iff, not_not] at h
    refine .inr ⟨by simp [TickEnds, hmode, h], ?_⟩
    rw [e, periodAfter, if_neg (by simp [hmode])]
  · exact .inl ⟨.inr ⟨hmode, remaining_eq_zero_iff.mp h⟩, e⟩
  · have hlong : ¬ f.fadePeriod ≤ p.tickUs := mt remaining_eq_zero_iff.mpr h
    refine .inr ⟨by simp [TickEnds, hmode, hlong], ?_⟩
    rw [e, periodAfter, if_pos hmode, remaining, if_neg hlong]

/-- What a tick does to the ramp, once it has moved the level (R186): the level moved and the ramp registers, which are
cleared at the end of the ramp. -/
structure RampTicked (p : FadeParams) (f g : Fade) : Prop where
  frame : g = { f with
    actualLevel := g.actualLevel, fadeRunning := g.fadeRunning, fadePeriod := g.fadePeriod
    fadeIncrement := g.fadeIncrement, fadeCounter := g.fadeCounter }
  level : g.actualLevel = (moveLevel p f).1
  ends : g.fadeRunning = false ↔ TickEnds p f g.actualLevel
  cleared : g.fadeRunning = false → g.fadePeriod = 0 ∧ g.fadeIncrement = 0 ∧ g.fadeCounter = 0
  kept : g.fadeRunning = true →
    g.fadeIncrement = f.fadeIncrement ∧ g.fadeCounter = (moveLevel p f).2 ∧ g.fadePeriod = periodAfter p f

theorem stepRamp_ticked (p : FadeParams) (hrun : f.fadeRunning = true) : RampTicked p f (stepRamp p f) := by
  unfold stepRamp
  dsimp only
  rcases endTick_eq p { f with actualLevel := (moveLevel p f).1, fadeCounter := (moveLevel p f).2 } with
    ⟨hends, e⟩ | ⟨hgoes, e⟩ <;> rw [e]
  · exact ⟨rfl, rfl, iff_of_true rfl hends, fun _ => ⟨rfl, rfl, rfl⟩, nofun⟩
  · exact ⟨rfl, rfl, iff_of_false (by simp [hrun]) hgoes, fun h => (nomatch hrun.symm.trans h),
      fun _ => ⟨rfl, rfl, rfl⟩⟩

/-! The steps of a tick (R186, R188). -/

/-- A tick with `total` accumulated takes `n` steps: `LoopTook`, and the straight run of U6. -/
structure TickTook (f : Fade) (total n : Nat) (out : Level × Micros) : Prop where
  counter : out.2.toNat + n * f.fadeIncrement.toNat = total
  steps : f.minLevel ≠ 0 ∨ f.fadeIncrement ≠ 0 →
    out.1 = stepLevels f.fadeDirection f.minLevel n f.actualLevel
    ∧ ∀ j, j < n → Before f.fadeDirection f.requestedLevel (stepLevels f.fadeDirection f.minLevel j f.actualLevel)
  free : f.minLevel = 0 → f.fadeIncrement = 0 →
    (Before f.fadeDirection f.requestedLevel f.actualLevel → out.1 = f.requestedLevel)
    ∧ (¬ Before f.fadeDirection f.requestedLevel f.actualLevel → out.1 = f.actualLevel)
  ended : out.2.toNat < f.fadeIncrement.toNat ∨ ¬ Before f.fadeDirection f.requestedLevel out.1

theorem moveLevel_took (hfits : f.fadeCounter.toNat + p.tickUs.toNat < 2 ^ 32) :
    ∃ n, TickTook f (f.fadeCounter.toNat + p.tickUs.toNat) n (moveLevel p f) := by
  have htotal : (f.fadeCounter + p.tickUs).toNat = f.fadeCounter.toNat + p.tickUs.toNat :=
    BitVec.toNat_add_of_lt hfits
  rw [moveLevel_eq_rampLoop, ← htotal]
  by_cases hlive : f.minLevel ≠ 0 ∨ f.fadeIncrement ≠ 0
  · obtain ⟨n, h⟩ := rampLoop_took hlive f.actualLevel (f.fadeCounter + p.tickUs)
    exact ⟨n, h.counter, fun _ => ⟨h.level, h.before⟩, fun hm hi => absurd hlive (by simp [hm, hi]), h.ended⟩
  · obtain ⟨hm, hi⟩ : f.minLevel = 0 ∧ f.fadeIncrement = 0 := by simpa using hlive
    rw [hm, hi]
    by_cases hb : Before f.fadeDirection f.requestedLevel f.actualLevel
    · rw [rampLoop_free hb]
      exact ⟨0, by simp, fun h => absurd h hlive, fun _ _ => ⟨fun _ => rfl, fun h => absurd hb h⟩,
        .inr not_before_self⟩
    · rw [rampLoop_stop fun h => hb h.2]
      exact ⟨0, by simp, fun h => absurd h hlive, fun _ _ => ⟨fun h => absurd h hb, fun _ => rfl⟩, .inr hb⟩

/-- The outputs of a state whose registers the ramp has written are driven from the new level (R192, R194). -/
theorem driveState_eq_of_ticked (ledOk : Bool) {g : Fade} (h : RampTicked p s.fade g) :
    driveState ledOk g s = { s with
      fade := { s.fade with
        actualLevel := g.actualLevel, fadeRunning := g.fadeRunning, fadePeriod := g.fadePeriod
        fadeIncrement := g.fadeIncrement, fadeCounter := g.fadeCounter
        outCurve := s.fade.curveSel, outLevel := mapLevel s.cfg.fade s.fade.curveSel g.actualLevel
        lampOn := lampOnFlag g.actualLevel ledOk, lampFailure := !ledOk }
      pushes := s.pushes ++ [⟨s.fade.curveSel, mapLevel s.cfg.fade s.fade.curveSel g.actualLevel,
        lampOnFlag g.actualLevel ledOk, !ledOk⟩] } :=
  congrArg (fun g' => driveState ledOk g' s) h.frame

/-- Settles O56: the loop takes its steps, the end of the tick writes the ramp registers, and the output half follows. -/
theorem tickInRamp : Obligations.TickInRamp := by
  intro s ledOk hrun hfits f total
  obtain ⟨n, htook⟩ := moveLevel_took hfits
  have hticked := stepRamp_ticked s.cfg.fade hrun
  have hcnt := htook.counter
  have hdrive := driveState_eq_of_ticked ledOk hticked
  refine ⟨n, _, (exec_fadeTick_running ledOk hrun).trans (congrArg _ hdrive), ?_, ?_, ?_, ?_, rfl, ?_, ?_,
    hticked.ends, hticked.cleared, ?_⟩
  · show n * s.fade.fadeIncrement.toNat ≤ s.fade.fadeCounter.toNat + s.cfg.fade.tickUs.toNat
    omega
  · rw [hticked.level]
    exact htook.steps
  · rw [hticked.level]
    exact htook.free
  · rw [hticked.level]
    refine htook.ended.imp_left fun h => ?_
    show s.fade.fadeCounter.toNat + s.cfg.fade.tickUs.toNat - n * s.fade.fadeIncrement.toNat
      < s.fade.fadeIncrement.toNat
    omega
  · intro hcurve
    show mapLevel s.cfg.fade s.fade.curveSel _ = _
    rw [show s.fade.curveSel = .logarithmic from hcurve]
    rfl
  · intro hcurve
    show mapLevel s.cfg.fade s.fade.curveSel _ = _
    rw [show s.fade.curveSel = .linear from hcurve]
    rfl
  · intro hgoes
    obtain ⟨hinc, hcounter, hperiod⟩ := hticked.kept hgoes
    refine ⟨hinc, ?_, hperiod⟩
    show (stepRamp s.cfg.fade s.fade).fadeCounter.toNat
      = s.fade.fadeCounter.toNat + s.cfg.fade.tickUs.toNat - n * s.fade.fadeIncrement.toNat
    rw [hcounter]
    omega

end Sys2Proof.Machine
end

section
/-! PROOF. A ramp from its setup to its end (R196): an induction over the ticks, in both modes at once. -/

namespace Sys2Proof.Machine

variable {p : FadeParams} {f₀ f : Fade} {T c : Nat}

/-! The steps that a time pays for. -/

/-- In the time `T` a ramp over the distance `d` takes `c` steps: as many as `T` pays for, but no more than `d`. -/
structure StepsIn (inc d T c : Nat) : Prop where
  paid : c * inc ≤ T
  within : c ≤ d
  ended : T < (c + 1) * inc ∨ c = d

theorem StepsIn.eq_min {inc d T c : Nat} (h : StepsIn inc d T c) (hinc : 0 < inc) : c = min d (T / inc) := by
  have hle : c ≤ T / inc := (Nat.le_div_iff_mul_le hinc).mpr h.paid
  rcases h.ended with hlt | rfl
  · have hge : T / inc < c + 1 := (Nat.div_lt_iff_lt_mul hinc).mpr hlt
    have := h.within
    omega
  · omega

/-- All the steps are taken exactly when the time pays for all of them. -/
theorem StepsIn.lt_iff {inc d T c : Nat} (h : StepsIn inc d T c) : c < d ↔ T < d * inc := by
  constructor
  · intro hlt
    exact (h.ended.resolve_right hlt.ne).trans_le (Nat.mul_le_mul_right inc hlt)
  · intro hT
    refine h.within.lt_of_ne ?_
    rintro rfl
    exact absurd h.paid (Nat.not_le.mpr hT)

/-! A ramp on its course. -/

/-- The registers of a ramp whose setup has just completed, with a target and limits in order (R174). -/
structure RampStart (f₀ : Fade) : Prop where
  running : f₀.fadeRunning = true
  counter : f₀.fadeCounter = 0
  direction : f₀.fadeDirection = directionTo f₀.actualLevel f₀.requestedLevel
  min : f₀.minLevel ≠ 0
  target : f₀.requestedLevel = 0 ∨ f₀.minLevel ≤ f₀.requestedLevel
  sane : FadeSane f₀

/-- The level of a ramp after `c` of its steps. -/
def rampLevel (f₀ : Fade) (c : Nat) : Level := stepLevels f₀.fadeDirection f₀.minLevel c f₀.actualLevel

/-- The time a ramp takes (R196): that of its steps, or its period. -/
def rampTime (f₀ : Fade) : Nat :=
  match f₀.fadeMode with
  | .time => rampDistance f₀ * f₀.fadeIncrement.toNat
  | .rate => f₀.fadePeriod.toNat

theorem rampTime_time (h : f₀.fadeMode = .time) : rampTime f₀ = rampDistance f₀ * f₀.fadeIncrement.toNat := by
  rw [rampTime, h]

theorem rampTime_rate (h : f₀.fadeMode = .rate) : rampTime f₀ = f₀.fadePeriod.toNat := by
  rw [rampTime, h]

/-- The ramp that started as `f₀` still runs after the time `T` and has taken `c` steps. -/
structure OnCourse (f₀ : Fade) (T c : Nat) (f : Fade) : Prop where
  running : f.fadeRunning = true
  mode : f.fadeMode = f₀.fadeMode
  direction : f.fadeDirection = f₀.fadeDirection
  min : f.minLevel = f₀.minLevel
  target : f.requestedLevel = f₀.requestedLevel
  increment : f.fadeIncrement = f₀.fadeIncrement
  within : c ≤ rampDistance f₀
  level : f.actualLevel = rampLevel f₀ c
  counter : f.fadeCounter.toNat + c * f₀.fadeIncrement.toNat = T
  period : f₀.fadeMode = .rate → f.fadePeriod.toNat + T = f₀.fadePeriod.toNat
  sane : FadeSane f

/-- The ramp that started as `f₀` has ended after the time `T` and has taken `c` steps. -/
structure CourseEnded (f₀ : Fade) (T c : Nat) (f : Fade) : Prop where
  steps : StepsIn f₀.fadeIncrement.toNat (rampDistance f₀) T c
  level : f.actualLevel = rampLevel f₀ c
  target : f.requestedLevel = f₀.requestedLevel
  stopped : f.fadeRunning = false
  cleared : f.fadePeriod = 0 ∧ f.fadeIncrement = 0 ∧ f.fadeCounter = 0

namespace RampStart

theorem toward (h : RampStart f₀) : Toward f₀.fadeDirection f₀.requestedLevel f₀.actualLevel := by
  rw [h.direction]
  exact toward_directionTo _ _

theorem before_iff (h : RampStart f₀) (hc : c ≤ rampDistance f₀) :
    Before f₀.fadeDirection f₀.requestedLevel (rampLevel f₀ c) ↔ c < rampDistance f₀ :=
  before_stepLevels_iff h.min h.target h.toward hc

/-- As many steps as the distance bring the level to its target. -/
theorem level_at_end (h : RampStart f₀) : rampLevel f₀ (rampDistance f₀) = f₀.requestedLevel :=
  stepLevels_dist h.min h.target h.toward

theorem onCourse (h : RampStart f₀) : OnCourse f₀ 0 0 f₀ where
  running := h.running
  mode := rfl
  direction := rfl
  min := rfl
  target := rfl
  increment := rfl
  within := Nat.zero_le _
  level := rfl
  counter := by rw [h.counter, Nat.zero_mul]; rfl
  period _ := rfl
  sane := h.sane

end RampStart

/-- A ramp that has had the time of all its steps is at its target (R196). -/
theorem CourseEnded.at_target {f₀ f : Fade} {T c : Nat} (h : CourseEnded f₀ T c f) (hs : RampStart f₀)
    (hT : rampDistance f₀ * f₀.fadeIncrement.toNat ≤ T) : f.actualLevel = f₀.requestedLevel := by
  have hall : ¬ c < rampDistance f₀ := mt h.steps.lt_iff.mp (Nat.not_lt.mpr hT)
  rw [h.level, h.steps.within.antisymm (Nat.le_of_not_lt hall), hs.level_at_end]

/-! One tick of a ramp on its course. -/

namespace OnCourse

variable {outW : Nat}

/-- A sane counter has room for a tick (R199). -/
theorem fits (hp : p.wf outW = true) (h : OnCourse f₀ T c f) : f.fadeCounter.toNat + p.tickUs.toNat < 2 ^ 32 := by
  obtain ⟨htick, _⟩ := fade_bounds hp
  obtain ⟨⟨_, _, _, hcounter⟩, _⟩ := (fadeSane_of_running h.running).mp h.sane
  omega

/-- The tick takes the level to where the time so far brings it, and carries the rest of that time. -/
theorem moved (hs : RampStart f₀) (hp : p.wf outW = true) (h : OnCourse f₀ T c f) :
    ∃ c', StepsIn f₀.fadeIncrement.toNat (rampDistance f₀) (T + p.tickUs.toNat) c'
      ∧ (moveLevel p f).1 = rampLevel f₀ c'
      ∧ (moveLevel p f).2.toNat + c' * f₀.fadeIncrement.toNat = T + p.tickUs.toNat := by
  obtain ⟨n, htook⟩ := moveLevel_took (h.fits hp)
  obtain ⟨hlevel, hbefore⟩ := htook.steps (.inl (by rw [h.min]; exact hs.min))
  have hcounter := htook.counter
  have hended := htook.ended
  have hjoin : ∀ j, stepLevels f₀.fadeDirection f₀.minLevel j (rampLevel f₀ c) = rampLevel f₀ (c + j) :=
    fun j => (stepLevels_add j c).symm
  simp only [h.direction, h.min, h.target, h.increment, h.level, hjoin] at hlevel hbefore hcounter hended
  have hpaid : (moveLevel p f).2.toNat + (c + n) * f₀.fadeIncrement.toNat = T + p.tickUs.toNat := by
    have := h.counter
    rw [Nat.add_mul]
    omega
  have hwithin : c + n ≤ rampDistance f₀ := by
    by_contra hover
    have hle := h.within
    have hat := hbefore (rampDistance f₀ - c) (by omega)
    rw [Nat.add_sub_cancel' hle, hs.before_iff le_rfl] at hat
    exact Nat.lt_irrefl _ hat
  refine ⟨c + n, ⟨by omega, hwithin, ?_⟩, hlevel, hpaid⟩
  rw [hlevel, hs.before_iff hwithin] at hended
  refine hended.imp (fun hrest => ?_) (fun hstop => by omega)
  rw [Nat.succ_mul]
  omega

/-- The tick ends the ramp exactly when its time is over (R196). -/
theorem tickEnds_iff {c' : Nat} (hs : RampStart f₀) (h : OnCourse f₀ T c f)
    (hsteps : StepsIn f₀.fadeIncrement.toNat (rampDistance f₀) (T + p.tickUs.toNat) c') :
    TickEnds p f (rampLevel f₀ c') ↔ rampTime f₀ ≤ T + p.tickUs.toNat := by
  unfold TickEnds
  rw [h.mode, h.direction, h.target, hs.before_iff hsteps.within, hsteps.lt_iff]
  cases hmode : f₀.fadeMode with
  | time => simp [rampTime_time hmode]
  | rate =>
    rw [rampTime_rate hmode]
    have hperiod := h.period hmode
    have hle : f.fadePeriod ≤ p.tickUs ↔ f.fadePeriod.toNat ≤ p.tickUs.toNat := Iff.rfl
    simp only [reduceCtorEq, false_and, true_and, false_or, hle]
    omega

/-- A tick within the time of the ramp keeps it on its course, and the tick that fills the time ends it (R196). -/
theorem stepRamp (hs : RampStart f₀) (hp : p.wf outW = true) (h : OnCourse f₀ T c f) :
    ∃ c', (T + p.tickUs.toNat < rampTime f₀ → OnCourse f₀ (T + p.tickUs.toNat) c' (Machine.stepRamp p f))
      ∧ (rampTime f₀ ≤ T + p.tickUs.toNat → CourseEnded f₀ (T + p.tickUs.toNat) c' (Machine.stepRamp p f)) := by
  obtain ⟨c', hsteps, hlevel, hcounter⟩ := h.moved hs hp
  have hticked := stepRamp_ticked p h.running
  have hends := hticked.ends
  rw [hticked.level, hlevel, h.tickEnds_iff hs hsteps] at hends
  refine ⟨c', fun htime => ?_, fun htime => ?_⟩
  · have hrun : (Machine.stepRamp p f).fadeRunning = true := by
      rw [← Bool.not_eq_false, hends]
      omega
    obtain ⟨hinc, hcnt, hper⟩ := hticked.kept hrun
    exact {
      running := hrun
      mode := (congrArg Fade.fadeMode hticked.frame).trans h.mode
      direction := (congrArg Fade.fadeDirection hticked.frame).trans h.direction
      min := (congrArg Fade.minLevel hticked.frame).trans h.min
      target := (congrArg Fade.requestedLevel hticked.frame).trans h.target
      increment := hinc.trans h.increment
      within := hsteps.within
      level := hticked.level.trans hlevel
      counter := by rw [hcnt, hcounter]
      period := fun hmode => by
        have hleft := h.period hmode
        rw [rampTime_rate hmode] at htime
        rw [hper, periodAfter, if_pos (h.mode.trans hmode), BitVec.toNat_sub_of_le (BitVec.le_def.mpr (by omega))]
        omega
      sane := stepRamp_sane hp h.sane h.running }
  · have hstop := hends.mpr htime
    exact ⟨hsteps, hticked.level.trans hlevel, (congrArg Fade.requestedLevel hticked.frame).trans h.target, hstop,
      hticked.cleared hstop⟩

/-- The output half of a tick leaves the course of the ramp alone. -/
theorem driveOutputs (h : OnCourse f₀ T c f) (ledOk : Bool) : OnCourse f₀ T c (Machine.driveOutputs p ledOk f) :=
  ⟨h.running, h.mode, h.direction, h.min, h.target, h.increment, h.within, h.level, h.counter, h.period, h.sane⟩

end OnCourse

theorem CourseEnded.driveOutputs (h : CourseEnded f₀ T c f) (ledOk : Bool) :
    CourseEnded f₀ T c (Machine.driveOutputs p ledOk f) :=
  ⟨h.steps, h.level, h.target, h.stopped, h.cleared⟩

/-! Many ticks. -/

theorem OnCourse.fadeTick {s : State} (hs : RampStart f₀) (hwf : s.cfg.wf = true) (h : OnCourse f₀ T c s.fade)
    (ledOk : Bool) : ∃ t c', exec (.fadeTick ledOk) s = .next t ∧ t.cfg = s.cfg
      ∧ (T + s.cfg.fade.tickUs.toNat < rampTime f₀ → OnCourse f₀ (T + s.cfg.fade.tickUs.toNat) c' t.fade)
      ∧ (rampTime f₀ ≤ T + s.cfg.fade.tickUs.toNat → CourseEnded f₀ (T + s.cfg.fade.tickUs.toNat) c' t.fade) := by
  obtain ⟨c', hgoes, hends⟩ := h.stepRamp hs (fadeParams_wf hwf)
  exact ⟨_, c', exec_fadeTick_running ledOk h.running, rfl, fun htime => (hgoes htime).driveOutputs ledOk,
    fun htime => (hends htime).driveOutputs ledOk⟩

/-- Until its time is over a ramp stays on its course. -/
theorem OnCourse.fadeTicks (hs : RampStart f₀) : ∀ (lamps : List Bool) {s : State} {T c : Nat}, s.cfg.wf = true →
    OnCourse f₀ T c s.fade →
    (lamps ≠ [] → T + lamps.length * s.cfg.fade.tickUs.toNat < rampTime f₀) →
    ∃ t c', Machine.fadeTicks lamps s = .next t ∧ t.cfg = s.cfg
      ∧ OnCourse f₀ (T + lamps.length * s.cfg.fade.tickUs.toNat) c' t.fade
  | [], s, T, c, _, h, _ => ⟨s, c, rfl, rfl, by simpa using h⟩
  | l :: ls, s, T, c, hwf, h, htime => by
    have htime := htime (List.cons_ne_nil l ls)
    rw [List.length_cons, Nat.succ_mul] at htime
    obtain ⟨t, c', hexec, hcfg, hgoes, _⟩ := h.fadeTick hs hwf l
    obtain ⟨t', c'', hticks, hcfg', hcourse⟩ :=
      OnCourse.fadeTicks hs ls (by rw [hcfg]; exact hwf) (hgoes (by omega)) (fun _ => by rw [hcfg]; omega)
    refine ⟨t', c'', ?_, hcfg'.trans hcfg, ?_⟩
    · rw [Machine.fadeTicks, hexec, andThen_next, hticks]
    · rw [hcfg, Nat.add_assoc, Nat.add_comm _ (ls.length * _), ← Nat.succ_mul] at hcourse
      exact hcourse

theorem fadeTicks_concat {l : Bool} {t t' : State} (hlast : exec (.fadeTick l) t = .next t') :
    ∀ {ls : List Bool} {s : State}, fadeTicks ls s = .next t → fadeTicks (ls ++ [l]) s = .next t'
  | [], s, h => by
    cases h
    rw [List.nil_append, fadeTicks, hlast, andThen_next, fadeTicks]
  | l' :: ls, s, h => by
    rw [fadeTicks] at h
    obtain ⟨m, hfirst, hrest⟩ := andThen_eq_next.mp h
    rw [List.cons_append, fadeTicks, hfirst, andThen_next, fadeTicks_concat hlast hrest]

/-- `n` is the number of the tick, 1 or later, that fills the time `E`. -/
structure FilledBy (E tick n : Nat) : Prop where
  pos : 0 < n
  before : ∀ j, 0 < j → j < n → j * tick < E
  full : E ≤ n * tick

/-- A ramp runs for the ticks that its time outlasts, and the tick that fills its time ends it (R196). -/
theorem ramp_completes {u : State} {n : Nat} (hs : RampStart u.fade) (hwf : u.cfg.wf = true)
    (hn : FilledBy (rampTime u.fade) u.cfg.fade.tickUs.toNat n) (lamps : List Bool) :
    (lamps.length < n → ∃ t, fadeTicks lamps u = .next t ∧ t.fade.fadeRunning = true)
    ∧ (lamps.length = n → ∃ t c, fadeTicks lamps u = .next t
        ∧ CourseEnded u.fade (n * u.cfg.fade.tickUs.toNat) c t.fade) := by
  have hcourse : ∀ ls : List Bool, ls.length < n → ∃ t c, fadeTicks ls u = .next t ∧ t.cfg = u.cfg
      ∧ OnCourse u.fade (0 + ls.length * u.cfg.fade.tickUs.toNat) c t.fade := fun ls hlt =>
    hs.onCourse.fadeTicks hs ls hwf fun hne => by
      rw [Nat.zero_add]
      exact hn.before _ (List.length_pos_of_ne_nil hne) hlt
  refine ⟨fun hlt => ?_, fun hlen => ?_⟩
  · obtain ⟨t, _, hticks, _, h⟩ := hcourse lamps hlt
    exact ⟨t, hticks, h.running⟩
  · obtain rfl | ⟨ls, l, rfl⟩ := lamps.eq_nil_or_concat'
    · exact absurd hlen hn.pos.ne
    · rw [List.length_append, List.length_singleton] at hlen
      obtain ⟨t, c, hticks, hcfg, h⟩ := hcourse ls (by omega)
      obtain ⟨t', c', hexec, _, _, hends⟩ := h.fadeTick hs (by rw [hcfg]; exact hwf) l
      rw [hcfg, Nat.zero_add, ← Nat.succ_mul, Nat.succ_eq_add_one, hlen] at hends
      exact ⟨t', c', fadeTicks_concat hexec hticks, hends hn.full⟩

end Sys2Proof.Machine
end

section
/-! PROOF. When the ramps of a setup end (R196): the time of a fade-time ramp is that of its steps, the time of a
fade-rate ramp is the window. -/

namespace Sys2Proof.Machine

variable {s u : State}

/-! The ramp of a setup. -/

theorem one_le_tickUs {outW : Nat} {p : FadeParams} (h : p.wf outW = true) : 1 ≤ p.tickUs.toNat := by
  simp only [FadeParams.wf, Bool.and_eq_true, decide_eq_true_eq] at h
  obtain ⟨⟨⟨⟨htick, _⟩, _⟩, _⟩, _⟩ := h
  exact htick

theorem one_le_rateStepUs {outW : Nat} {p : FadeParams} (h : p.wf outW = true) {i : Nat} (hi : i < 16) :
    1 ≤ p.rateStepUs[i].toNat := by
  simp only [FadeParams.wf, Bool.and_eq_true, decide_eq_true_eq, List.all_eq_true] at h
  obtain ⟨⟨_, hrate⟩, _⟩ := h
  exact (hrate _ (Vector.mem_toList_iff.mpr (Vector.getElem_mem hi))).1

/-- A setup after which a ramp runs did not take its target at once, and started that ramp. -/
theorem setup_started (hreq : s.fade.outputChangeRequested = true) (h : exec .fadeSetup s = .next u)
    (hrun : u.fade.fadeRunning = true) :
    ¬ AtOnce s.cfg.fade (clampRequest s.fade)
    ∧ u = { s with fade := dropRequests (beginRamp s.cfg.fade (clampRequest s.fade)) } := by
  have hu := execFadeSetup_frame h
  by_cases hat : AtOnce s.cfg.fade (clampRequest s.fade)
  · rw [hu, setupFade_at_once hreq hat] at hrun
    exact nomatch hrun
  · rw [setupFade_ramp hreq hat] at hu
    exact ⟨hat, hu⟩

theorem rampStart_beginRamp {outW : Nat} {p : FadeParams} {f : Fade} (hp : p.wf outW = true) (hmin : f.minLevel ≠ 0)
    (hlim : f.minLevel ≤ f.maxLevel) (hat : ¬ AtOnce p (clampRequest f)) :
    RampStart (dropRequests (beginRamp p (clampRequest f))) where
  running := rfl
  counter := rfl
  direction := rfl
  min := hmin
  target := (clamp_inside hlim).imp_right And.left
  sane := by
    have hsane : FadeSane (startRamp p (clampRequest f).requestedLevel (clampRequest f)) := startRamp_sane hp _ _
    rw [startRamp_ramp hat] at hsane
    exact hsane

theorem beginRamp_mode {p : FadeParams} {f : Fade} :
    (beginRamp p f).fadeMode = .rate ↔ f.fadeRateRequested = true := by
  show (if f.fadeRateRequested = true then FadeMode.rate else FadeMode.time) = .rate ↔ _
  split <;> simp [*]

/-- A fade-rate ramp lasts for the window and has an increment (R11, R174). -/
theorem beginRamp_rate {outW : Nat} {p : FadeParams} {f : Fade} (hp : p.wf outW = true)
    (hmode : (beginRamp p f).fadeMode = .rate) :
    (beginRamp p f).fadePeriod = p.rateWindowUs ∧ 0 < (beginRamp p f).fadeIncrement.toNat := by
  have hreq := beginRamp_mode.mp hmode
  have hinc : (beginRamp p f).fadeIncrement = p.rateStepUs[f.fadeRate.toNat] := if_pos hreq
  rw [hinc]
  exact ⟨if_pos hreq, one_le_rateStepUs hp f.fadeRate.isLt⟩

/-- The steps of a fade-time ramp fit in its period (R174). -/
theorem beginRamp_time {p : FadeParams} {f : Fade} (hmode : (beginRamp p f).fadeMode = .time) :
    rampDistance f * (beginRamp p f).fadeIncrement.toNat ≤ (beginRamp p f).fadePeriod.toNat := by
  have hreq : ¬ f.fadeRateRequested = true := fun h => nomatch hmode.symm.trans (beginRamp_mode.mpr h)
  have hinc : (beginRamp p f).fadeIncrement = BitVec.ofNat 32 ((setupPeriod p f).toNat / rampDistance f) := if_neg hreq
  rw [hinc, BitVec.toNat_ofNat]
  calc rampDistance f * ((setupPeriod p f).toNat / rampDistance f % 2 ^ 32)
      ≤ rampDistance f * ((setupPeriod p f).toNat / rampDistance f) := Nat.mul_le_mul_left _ (Nat.mod_le _ _)
    _ ≤ (setupPeriod p f).toNat := Nat.mul_div_le _ _

/-- The ramp of `u` was started by a setup of `s`: it starts from the level of `s`, and the steps of a fade-time ramp fit
in its period (R174). -/
structure StartedBy (s u : State) : Prop where
  start : RampStart u.fade
  cfg : u.cfg = s.cfg
  minLevel : u.fade.minLevel = s.fade.minLevel
  actualLevel : u.fade.actualLevel = s.fade.actualLevel
  rate : u.fade.fadeMode = .rate → u.fade.fadePeriod = s.cfg.fade.rateWindowUs ∧ 0 < u.fade.fadeIncrement.toNat
  time : u.fade.fadeMode = .time → rampDistance u.fade * u.fade.fadeIncrement.toNat ≤ u.fade.fadePeriod.toNat
  distance : 2 ≤ rampDistance u.fade

/-- What a setup in limits that are in order leaves, if a ramp runs after it. -/
theorem startedBy_of_setup (hwf : s.cfg.wf = true) (hmin : s.fade.minLevel ≠ 0)
    (hlim : s.fade.minLevel ≤ s.fade.maxLevel) (hreq : s.fade.outputChangeRequested = true)
    (h : exec .fadeSetup s = .next u) (hrun : u.fade.fadeRunning = true) : StartedBy s u := by
  obtain ⟨hat, rfl⟩ := setup_started hreq h hrun
  exact {
    start := rampStart_beginRamp (fadeParams_wf hwf) hmin hlim hat
    cfg := rfl
    minLevel := rfl
    actualLevel := rfl
    rate := beginRamp_rate (fadeParams_wf hwf)
    time := beginRamp_time
    distance := Nat.lt_of_not_le (not_or.mp hat).1 }

theorem StartedBy.distance_eq (h : StartedBy s u) :
    rampDistance u.fade = dist s.fade.minLevel s.fade.actualLevel u.fade.requestedLevel := by
  rw [rampDistance, h.minLevel, h.actualLevel]

theorem RampStart.period_pos {f : Fade} (h : RampStart f) : 0 < f.fadePeriod.toNat := by
  obtain ⟨⟨hperiod, _⟩, _⟩ := (fadeSane_of_running h.running).mp h.sane
  bv_omega

/-! The tick that fills a time. -/

theorem lt_ceil_iff {E tick k : Nat} (htick : 1 ≤ tick) : k < (E + tick - 1) / tick ↔ k * tick < E := by
  rw [← Nat.add_one_le_iff, Nat.le_div_iff_mul_le htick, Nat.add_mul]
  omega

theorem filledBy_ceil {E tick : Nat} (htick : 1 ≤ tick) (hE : 0 < E) : FilledBy E tick ((E + tick - 1) / tick) where
  pos := (lt_ceil_iff htick).mpr (by rwa [Nat.zero_mul])
  before _ _ hj := (lt_ceil_iff htick).mp hj
  full := Nat.not_lt.mp (mt (lt_ceil_iff htick).mpr (Nat.lt_irrefl _))

theorem filledBy_zero (tick : Nat) : FilledBy 0 tick 1 where
  pos := Nat.one_pos
  before _ hpos hj := absurd hpos (Nat.not_lt.mpr (Nat.lt_one_iff.mp hj).le)
  full := Nat.zero_le _

/-- A longer time is filled no sooner. -/
theorem FilledBy.le {E E' tick n n' : Nat} (h : FilledBy E tick n) (h' : FilledBy E' tick n') (hE : E ≤ E') :
    n ≤ n' := by
  by_contra hlt
  exact absurd ((h.before n' h'.pos (Nat.lt_of_not_le hlt)).trans_le hE) (Nat.not_lt.mpr h'.full)

/-- The tick that fills the time of `d` steps (R196). -/
theorem filledBy_steps {tick d : Nat} (htick : 1 ≤ tick) (hd : 0 < d) (inc : Nat) :
    FilledBy (d * inc) tick (if inc = 0 then 1 else (d * inc + tick - 1) / tick) := by
  split
  case isTrue h0 =>
    rw [h0]
    exact filledBy_zero tick
  case isFalse h0 => exact filledBy_ceil htick (Nat.mul_pos hd (Nat.pos_of_ne_zero h0))

/-! The two modes. -/

/-- Settles O58: the time of the ramp is the window, and the level has taken the steps that this time pays for. -/
theorem fadeRateRampCompletes : Obligations.FadeRateRampCompletes := by
  intro s u lamps hwf hmin hlim hreq hsetup hrun hmode tick d inc n
  have h := startedBy_of_setup hwf hmin hlim hreq hsetup hrun
  obtain ⟨hwindow, hinc⟩ := h.rate hmode
  have htime : rampTime u.fade = s.cfg.fade.rateWindowUs.toNat := by rw [rampTime_rate hmode, hwindow]
  have hn : FilledBy (rampTime u.fade) u.cfg.fade.tickUs.toNat n := by
    rw [htime, h.cfg]
    exact filledBy_ceil (one_le_tickUs (fadeParams_wf hwf)) (hwindow ▸ h.start.period_pos)
  obtain ⟨hruns, hends⟩ := ramp_completes h.start (h.cfg ▸ hwf) hn lamps
  refine ⟨hruns, fun hlen => ?_⟩
  obtain ⟨t, c, hticks, hended⟩ := hends hlen
  refine ⟨t, hticks, ?_, hended.target, hended.stopped, hended.cleared⟩
  rw [hended.level, rampLevel, hended.steps.eq_min hinc, h.distance_eq, h.minLevel, h.actualLevel, h.cfg]

/-- Settles O57: the time of the ramp is that of its steps, which lead to the target and fit in the period. -/
theorem fadeTimeRampCompletes : Obligations.FadeTimeRampCompletes := by
  intro s u lamps hwf hmin hlim hreq hsetup hrun hmode tick d inc n
  have h := startedBy_of_setup hwf hmin hlim hreq hsetup hrun
  have htick : 1 ≤ tick := one_le_tickUs (fadeParams_wf hwf)
  have hd : rampDistance u.fade = d := h.distance_eq
  have hsteps : FilledBy (d * inc) tick n := filledBy_steps htick (hd ▸ Nat.zero_lt_of_lt h.distance) inc
  have hn : FilledBy (rampTime u.fade) u.cfg.fade.tickUs.toNat n := by
    rw [rampTime_time hmode, hd, h.cfg]
    exact hsteps
  obtain ⟨hruns, hends⟩ := ramp_completes h.start (h.cfg ▸ hwf) hn lamps
  refine ⟨hsteps.le (filledBy_ceil htick h.start.period_pos) (hd ▸ h.time hmode), hruns, fun hlen => ?_⟩
  obtain ⟨t, c, hticks, hended⟩ := hends hlen
  have hat := hended.at_target h.start (rampTime_time hmode ▸ hn.full)
  exact ⟨t, hticks, hat, hended.target, hended.stopped, hended.cleared⟩

end Sys2Proof.Machine
end

section
/-! PROOF. Simultaneous inputs: the order of one capture clock (R224; log entry 22). -/

namespace Sys2Proof.Machine

theorem arbitrate_of_rst {c : Config} {x : SameClock} (h : x.rst = true) : arbitrate c x = [inputOf c .reset] :=
  if_pos h

theorem arbitrate_of_no_rst {c : Config} {x : SameClock} (h : x.rst = false) :
    arbitrate c x =
      (if x.txTick then [inputOf c .txTick] else [])
      ++ (x.edge.toList.map fun e => inputOf c (edgeInstr e))
      ++ (if x.rxTick ∧ x.edge = none then [inputOf c .rxTick] else [])
      ++ x.host
      ++ (x.fadeTick.toList.map fun l => inputOf c (.fadeTick l)) :=
  if_neg (Bool.eq_false_iff.mp h)

/-- Settles O7: each part of the order is empty or a single input, as its field of the clock says. -/
theorem sameClockOrder : Obligations.SameClockOrder := by
  intro c x
  refine ⟨arbitrate_of_rst, fun hrst => ⟨_, _, _, _, arbitrate_of_no_rst hrst, ?_⟩⟩
  refine ⟨fun h => if_pos h, fun h => if_neg (Bool.eq_false_iff.mp h), fun h => ?_, fun h => ?_, fun off on h => ?_,
    fun h => if_neg fun ⟨_, hnone⟩ => h hnone, fun hedge h => if_pos ⟨h, hedge⟩,
    fun h => if_neg fun ⟨htick, _⟩ => Bool.eq_false_iff.mp h htick, fun h => ?_, fun l h => ?_⟩ <;> rw [h] <;> rfl

end Sys2Proof.Machine
end

section
/-! PROOF. The exceptions of the codec (R210, R212, R214): what an abort writes, the conditions X1 to X8 phase by phase,
and that an operation aborts under these conditions and under no other. -/

namespace Sys2Proof.Machine

variable {s t : State} {i : Instr}

/-! Taking an exception (R214). -/

/-- Settles O35: the equation is the definition of `abort`, and it leaves the receiver disabled (R220). -/
theorem abortRecordsAndStops : Obligations.AbortRecordsAndStops :=
  fun _ _ => ⟨rfl, fun e => execFrontEvent_of_done e rfl⟩

/-- From `s` to `t` an exception is taken: the cause is recorded, the receiver stops, and `RecvError` is posted after
the records `earlier` of the same operation. -/
def Aborted (cause : RxCause) (earlier : List Event) (s t : State) : Prop :=
  t.rx.rxCause = cause ∧ t.rx.rxPhase = .done
    ∧ t.evQ = s.evQ ++ (earlier ++ [⟨s.rx.rxTask, .recvError, []⟩])

theorem abort_aborted (cause : RxCause) (s : State) : Aborted cause [] s (abort cause s) := ⟨rfl, rfl, rfl⟩

/-- From `s` to `t` no exception is taken: the cause is kept or cleared, and no `RecvError` is posted. -/
def Regular (s t : State) : Prop :=
  (t.rx.rxCause = s.rx.rxCause ∨ t.rx.rxCause = .none) ∧ ∃ new, t.evQ = s.evQ ++ new ∧ ∀ e ∈ new, e.kind ≠ .recvError

theorem Regular.silent (hc : t.rx.rxCause = s.rx.rxCause) (hq : t.evQ = s.evQ) : Regular s t :=
  ⟨.inl hc, [], by rw [hq, List.append_nil], nofun⟩

theorem Regular.refl (s : State) : Regular s s := .silent rfl rfl

theorem Regular.posted {x : Event} (hc : t.rx.rxCause = s.rx.rxCause) (hq : t.evQ = s.evQ ++ [x])
    (hx : x.kind ≠ .recvError) : Regular s t :=
  ⟨.inl hc, [x], hq, fun _ he => by cases List.mem_singleton.mp he; exact hx⟩

theorem kind_ne_recvError_of_mem_firstEdge {r : Rx} : ∀ e ∈ firstEdge r, e.kind ≠ .recvError := by
  unfold firstEdge
  split
  · exact nofun
  · exact fun _ he => by cases List.mem_singleton.mp he; exact nofun

theorem edge_regular (s : State) : Regular s (clearMiss (noteEdge s)) := by
  rw [clearMiss_noteEdge]
  exact ⟨.inl rfl, _, rfl, kind_ne_recvError_of_mem_firstEdge⟩

/-! The conditions of R210, phase by phase. -/

theorem Listens.not_stop {r : Rx} (h : Listens r) : r.rxPhase ≠ .stop := by
  rcases h with hp | hp <;> rw [hp] <;> exact nofun

section Sample

variable {off on : Nat}

/-- Without a receive operation no sample is an exception (R220). -/
theorem not_raisesTiming_of_done (hp : s.rx.rxPhase = .done) : ¬ RaisesTiming (.rxSample off on) s := by
  simp [RaisesTiming, hp]

/-- In the stop phase every sample is one (X7). -/
theorem raisesTiming_of_stop (hp : s.rx.rxPhase = .stop) : RaisesTiming (.rxSample off on) s := .inl hp

/-- In the sync phase a sample is one when it is no sync pair (X1, X2). -/
theorem raisesTiming_of_sync (hp : s.rx.rxPhase = .sync) :
    RaisesTiming (.rxSample off on) s ↔
      ¬ SyncPair s.rx.rxSyncCnt (classify s.cfg.codec off) (classify s.cfg.codec on) := by
  rcases Nat.eq_zero_or_pos s.rx.rxSyncCnt with h0 | hpos
  · simp [RaisesTiming, SyncPair, hp, h0]
  · simp [RaisesTiming, SyncPair, hp, hpos, hpos.ne', and_comm]

/-- The action of a sample in the data phase (R144). -/
def actionOf (off on : Nat) (s : State) : DecAction :=
  lookup s.rx.rxPrev (classify s.cfg.codec off) (classify s.cfg.codec on)

theorem execRxSample_eq_sample (off on : Nat) (s : State) :
    execRxSample off on s = sample (classify s.cfg.codec off) (classify s.cfg.codec on) (actionOf off on s) s := rfl

/-- In the data phase a sample is one when no rule accepts it, or when its second bit is beyond the frame (X3 to X5). -/
theorem raisesTiming_of_data (hp : s.rx.rxPhase = .data) :
    RaisesTiming (.rxSample off on) s ↔
      actionOf off on s = .error ∨ (actionOf off on s = .emit01 ∧ s.rx.rxBitCnt = 7 ∧ s.rx.rxRemain = 1) := by
  rw [actionOf, lookup_eq_error, lookup_eq_emit01]
  simp [RaisesTiming, hp]

end Sample

theorem not_raisesTimeout (h : i ≠ .rxTick) : ¬ RaisesTimeout i s := fun ⟨he, _⟩ => h he

theorem raisesTimeout_tick_iff : RaisesTimeout .rxTick s ↔ Listens s.rx ∧ s.rx.rxEdgeSeen = true ∧ s.rx.rxMiss = 3 := by
  simp [RaisesTimeout, Listens]

/-! Each operation of the codec takes the exception whose condition it meets, and no other. -/

/-- The step of `i` from `s` to `t` is accounted for by the list of exceptions (R210). -/
inductive Accounted (i : Instr) (s t : State) : Prop where
  | timing (earlier : List Event) (h : RaisesTiming i s) (ht : Aborted .frameTimingError earlier s t)
  | timeout (h : RaisesTimeout i s) (ht : Aborted .frameTimeoutError [] s t)
  | regular (htiming : ¬ RaisesTiming i s) (htimeout : ¬ RaisesTimeout i s) (ht : Regular s t)

/-- A rising edge aborts in the stop phase alone (X6; R142). -/
theorem rise_accounted (h : execRxRise s = .next t) : Accounted .rxRise s t := by
  have hlistens : Listens s.rx → Accounted .rxRise s t := fun hp => by
    cases (execRxRise_of_listens hp).symm.trans h
    exact .regular hp.not_stop (not_raisesTimeout nofun) (edge_regular s)
  rcases hp : s.rx.rxPhase
  case sync => exact hlistens (.inl hp)
  case data => exact hlistens (.inr hp)
  case stop =>
    cases (execRxRise_of_stop hp).symm.trans h
    exact .timing [] hp (abort_aborted _ s)
  case done =>
    cases (execFrontEvent_of_done .rise hp).symm.trans h
    exact .regular (fun hstop => nomatch hp.symm.trans hstop) (not_raisesTimeout nofun) (.refl s)

theorem Packed.rxCause {n : Nat} {b : Bool} {r r' : Rx} (h : Packed n b r r') : r'.rxCause = r.rxCause := by
  obtain ⟨_, _, _, _, _, _, hcause, _⟩ := h
  exact hcause

/-- While a byte is still to come, a bit ends the data phase exactly when it completes the last byte (R146). -/
theorem Packed.data_iff {n : Nat} {b : Bool} {r r' : Rx} (h : Packed n b r r') (hp : r.rxPhase = .data)
    (hrem : 0 < r.rxRemain) : r'.rxPhase = .data ↔ ¬ (r.rxBitCnt = 7 ∧ r.rxRemain = 1) := by
  obtain ⟨_, _, _, _, _, _, _, hshort, hfull⟩ := h
  by_cases hbit : r.rxBitCnt = 7
  · obtain ⟨_, _, hrem', _, _, hlast, hmore⟩ := hfull hbit
    by_cases hone : r.rxRemain = 1
    · obtain ⟨hstop, _⟩ := hlast (by omega)
      simp [hbit, hone, hstop]
    · obtain ⟨hphase, _⟩ := hmore (by omega)
      simp [hone, hphase, hp]
  · obtain ⟨_, _, _, _, _, hphase⟩ := hshort hbit
    exact iff_of_true (hphase.trans hp) fun ⟨hfull, _⟩ => hbit hfull

/-- A sample that packs one bit is regular. -/
theorem PacksBit.regular {b : Bool} (h : PacksBit b s (.next t)) : Regular s t := by
  obtain ⟨u, hu, hframe, hpacked, _⟩ := h
  cases hu
  exact .silent hpacked.rxCause (congrArg State.evQ hframe :)

/-- A sample that emits 0 then 1 aborts exactly where the 0 completes the last byte. -/
theorem PacksZeroOne.regular_or_aborted (h : PacksZeroOne s (.next t)) (hp : s.rx.rxPhase = .data)
    (hrem : 0 < s.rx.rxRemain) :
    (¬ (s.rx.rxBitCnt = 7 ∧ s.rx.rxRemain = 1) ∧ Regular s t)
    ∨ ((s.rx.rxBitCnt = 7 ∧ s.rx.rxRemain = 1) ∧ Aborted .frameTimingError [] s t) := by
  obtain ⟨u, mid, hu, hpacked, hdata, hbeyond⟩ := h
  cases hu
  have hmid := hpacked.data_iff hp hrem
  by_cases hlast : s.rx.rxBitCnt = 7 ∧ s.rx.rxRemain = 1
  · refine .inr ⟨hlast, ?_⟩
    rw [hbeyond fun he => hmid.mp he hlast]
    exact ⟨rfl, rfl, rfl⟩
  · obtain ⟨hframe, hpacked', _⟩ := hdata (hmid.mpr hlast)
    exact .inl ⟨hlast, .silent (hpacked'.rxCause.trans hpacked.rxCause) (congrArg State.evQ hframe :)⟩

section Sample

variable {off on : Nat}

/-- A sync pair is counted, and any other sample aborts after its edge is noted (R140, R144). -/
theorem syncSample_accounted (hp : s.rx.rxPhase = .sync)
    (h : execRxSample off on s = .next t) : Accounted (.rxSample off on) s t := by
  cases (execRxSample_of_sync hp off on).symm.trans h
  rw [clearMiss_noteEdge]
  by_cases hpair : SyncPair s.rx.rxSyncCnt (classify s.cfg.codec off) (classify s.cfg.codec on)
  · rw [syncSample_of_pair (by exact hpair)]
    exact .regular (fun hx => (raisesTiming_of_sync hp).mp hx hpair) (not_raisesTimeout nofun)
      ⟨.inl rfl, _, rfl, kind_ne_recvError_of_mem_firstEdge⟩
  · rw [syncSample_of_other (by exact hpair)]
    exact .timing (firstEdge s.rx) ((raisesTiming_of_sync hp).mpr hpair) ⟨rfl, rfl, List.append_assoc _ _ _⟩

/-- A sample that emits one bit meets none of the conditions. -/
theorem oneBit_accounted (b : Bool) (hp : s.rx.rxPhase = .data) (hroom : s.rx.rxByte < s.cfg.nmax)
    (ha : actionOf off on s = bitAction b) (h : execRxSample off on s = .next t) :
    Accounted (.rxSample off on) s t := by
  have hno : ¬ RaisesTiming (.rxSample off on) s := by
    rw [raisesTiming_of_data hp, ha]
    cases b <;> simp [bitAction]
  refine .regular hno (not_raisesTimeout nofun) (PacksBit.regular (b := b) ?_)
  rw [← h, execRxSample_eq_sample, ha]
  exact sample_packsBit hp b hroom

/-- A sample that emits 0 then 1 meets X5 where the 0 completes the last byte. -/
theorem zeroOne_accounted (hp : s.rx.rxPhase = .data) (hroom : s.rx.rxByte < s.cfg.nmax) (hrem : 0 < s.rx.rxRemain)
    (ha : actionOf off on s = .emit01) (h : execRxSample off on s = .next t) : Accounted (.rxSample off on) s t := by
  have hraises : RaisesTiming (.rxSample off on) s ↔ s.rx.rxBitCnt = 7 ∧ s.rx.rxRemain = 1 := by
    simp [raisesTiming_of_data hp, ha]
  have hpacks : PacksZeroOne s (.next t) := by
    rw [← h, execRxSample_eq_sample, ha]
    exact sample_packsZeroOne hp hroom
  rcases hpacks.regular_or_aborted hp hrem with ⟨hmore, ht⟩ | ⟨hlast, ht⟩
  · exact .regular (mt hraises.mp hmore) (not_raisesTimeout nofun) ht
  · exact .timing [] (hraises.mpr hlast) ht

/-- A sample that no rule accepts meets X3 or X4. -/
theorem error_accounted (hp : s.rx.rxPhase = .data) (ha : actionOf off on s = .error)
    (h : execRxSample off on s = .next t) : Accounted (.rxSample off on) s t := by
  cases (sampleAborts s off on hp (lookup_eq_error.mp ha)).symm.trans h
  exact .timing [] ((raisesTiming_of_data hp).mpr (.inl ha)) ⟨rfl, rfl, rfl⟩

/-- In the data phase a sane receiver has room for the bits of every action (R29, R67). -/
theorem dataSample_accounted (hs : RxSane s.cfg s.rx) (hp : s.rx.rxPhase = .data)
    (h : execRxSample off on s = .next t) : Accounted (.rxSample off on) s t := by
  obtain ⟨hfits, hsum, hmore⟩ := hs.hasRoom
  have hrem : 0 < s.rx.rxRemain := hmore (.inr hp)
  have hroom : s.rx.rxByte < s.cfg.nmax := by omega
  rcases ha : actionOf off on s
  case emit0 => exact oneBit_accounted false hp hroom ha h
  case emit1 => exact oneBit_accounted true hp hroom ha h
  case emit01 => exact zeroOne_accounted hp hroom hrem ha h
  case error => exact error_accounted hp ha h

theorem sample_accounted (hs : RxSane s.cfg s.rx) (h : execRxSample off on s = .next t) :
    Accounted (.rxSample off on) s t := by
  rcases hp : s.rx.rxPhase
  case sync => exact syncSample_accounted hp h
  case data => exact dataSample_accounted hs hp h
  case stop =>
    cases (sample_of_stop hp).symm.trans h
    exact .timing [] (raisesTiming_of_stop hp) (abort_aborted _ s)
  case done =>
    cases (sample_of_done hp).symm.trans h
    exact .regular (not_raisesTiming_of_done hp) (not_raisesTimeout nofun) (.refl s)

end Sample

/-- A window without an edge aborts when it is the fourth after the first edge (X8; R156). -/
theorem missWindow_accounted (hp : Listens s.rx) : Accounted .rxTick s (missWindow s) := by
  rcases hseen : s.rx.rxEdgeSeen
  · rw [missWindow_of_unseen hseen]
    refine .regular id (fun hx => ?_) (.refl s)
    obtain ⟨_, hset, _⟩ := raisesTimeout_tick_iff.mp hx
    exact nomatch hseen.symm.trans hset
  · by_cases hmiss : s.rx.rxMiss = 3
    · rw [missWindow_of_last hseen hmiss]
      exact .timeout (raisesTimeout_tick_iff.mpr ⟨hp, hseen, hmiss⟩) ⟨rfl, rfl, rfl⟩
    · rw [missWindow_of_more hseen hmiss]
      refine .regular id (fun hx => ?_) (.silent rfl rfl)
      obtain ⟨_, _, hlast⟩ := raisesTimeout_tick_iff.mp hx
      exact hmiss hlast

/-- A receiver that does not listen has no timeout. -/
theorem Regular.tick_accounted (ht : Regular s t) (hp : ¬ Listens s.rx) : Accounted .rxTick s t := by
  refine .regular id (fun hx => ?_) ht
  obtain ⟨hlistens, _⟩ := raisesTimeout_tick_iff.mp hx
  exact hp hlistens

theorem tick_accounted (h : execRxTick s = .next t) : Accounted .rxTick s t := by
  have hlistens : Listens s.rx → Accounted .rxTick s t := fun hp => by
    cases (execRxTick_of_listens hp).symm.trans h
    exact missWindow_accounted hp
  rcases hp : s.rx.rxPhase
  case sync => exact hlistens (.inl hp)
  case data => exact hlistens (.inr hp)
  case stop =>
    refine Regular.tick_accounted ?_ (by simp [Listens, hp])
    have hstop : stopWindow s = .next t := (execRxTick_of_stop hp).symm.trans h
    rcases stopWindow_cases s with e | e | e <;> cases e.symm.trans hstop
    · exact .silent rfl rfl
    · exact .posted rfl rfl nofun
  case done =>
    cases (execFrontEvent_of_done .tick hp).symm.trans h
    exact (Regular.refl s).tick_accounted (by simp [Listens, hp])

/-- A transmit tick reaches the receiver in nothing, and posts at most the completion (R118). -/
theorem txTick_regular (h : execTxTick s = .next t) : Regular s t := by
  have hcause : t.rx.rxCause = s.rx.rxCause := (congrArg (·.rx.rxCause) (execTxTick_frame h) :)
  obtain ⟨hends, hgoes⟩ := execTxTick_evQ h
  by_cases hend : TxEnds s.cfg.codec s.tx
  · exact .posted hcause (hends hend) nofun
  · exact .silent hcause (hgoes hend)

/-- `RECEIVE` clears the cause where it is accepted (R134), and posts nothing. -/
theorem receive_regular {len task : Nat} (h : execReceive len task s = .next t) : Regular s t := by
  rcases execReceive_cases len task s with ⟨_, _, _, e⟩ | e <;> cases e.symm.trans h
  · exact ⟨.inr rfl, [], (List.append_nil _).symm, nofun⟩
  · exact .refl s

/-- Every operation of the codec on a sane receiver is accounted for by the list of R210. -/
theorem codecOp_accounted (hi : Instr.isCodecOp i = true) (hs : RxSane s.cfg s.rx) (h : exec i s = .next t) :
    Accounted i s t := by
  cases i with
  | transmit task data =>
    have hframe := execTransmit_frame h
    exact .regular id (not_raisesTimeout nofun)
      (.silent (congrArg (·.rx.rxCause) hframe :) (congrArg State.evQ hframe :))
  | receive len task => exact .regular id (not_raisesTimeout nofun) (receive_regular h)
  | stopReceive =>
    cases h
    exact .regular id (not_raisesTimeout nofun) (.silent rfl rfl)
  | txTick => exact .regular id (not_raisesTimeout nofun) (txTick_regular h)
  | rxRise => exact rise_accounted h
  | rxSample off on => exact sample_accounted hs h
  | rxTick => exact tick_accounted h
  | _ => exact nomatch hi

/-- The two kinds of exception never meet in one operation. -/
theorem not_raisesTiming_of_raisesTimeout (h : RaisesTimeout i s) : ¬ RaisesTiming i s := by
  obtain ⟨rfl, _⟩ := h
  exact id

/-- Settles O36: the three ways in which an operation is accounted for are its three clauses. -/
theorem exceptionsAreComplete : Obligations.ExceptionsAreComplete := by
  intro s t i hi hs h
  cases codecOp_accounted hi hs h with
  | timing earlier htiming ht =>
    obtain ⟨hcause, hphase, hq⟩ := ht
    exact ⟨_, hq, fun _ => ⟨hcause, hphase, List.getLast?_concat⟩,
      fun htimeout => absurd htiming (not_raisesTiming_of_raisesTimeout htimeout), fun hno => absurd htiming hno⟩
  | timeout htimeout ht =>
    obtain ⟨hcause, hphase, hq⟩ := ht
    exact ⟨_, hq, fun htiming => absurd htiming (not_raisesTiming_of_raisesTimeout htimeout),
      fun _ => ⟨hcause, hphase, rfl⟩, fun _ hno => absurd htimeout hno⟩
  | regular htiming htimeout ht =>
    obtain ⟨hcause, new, hq, hnew⟩ := ht
    exact ⟨new, hq, fun hx => absurd hx htiming, fun hx => absurd hx htimeout, fun _ _ => ⟨hcause, hnew⟩⟩

end Sys2Proof.Machine
end
